-- ==== Sys2Proof/Config.lean ====
section
/-! DEFINITION. The parameters of the machine (00_scope.md R10, R11), each under its own name with the spec's value.
`FONT` stands in Machine/Font.lean. -/

namespace Sys2Proof.Config

/-- `MEM_SIZE`: bytes of memory, addresses 0x000 to 0xFFF (R10, R39). -/
abbrev memSize : Nat := 4096
/-- `LOAD_ADDR`: first byte of the program image and reset value of PC (R10). -/
abbrev loadAddr : Nat := 0x200
/-- `FONT_BASE`: first byte of the font table (R10, R50). -/
abbrev fontBase : Nat := 0x000
/-- `GLYPH_BYTES`: bytes per font glyph (R10). -/
abbrev glyphBytes : Nat := 5
/-- `FONT_DIGITS`: glyphs, for hexadecimal digits 0 to F (R10). -/
abbrev fontDigits : Nat := 16
/-- `NREGS`: general registers (R10, R17). -/
abbrev nregs : Nat := 16
/-- `REG_W`: bits per general register (R10). -/
abbrev regW : Nat := 8
/-- `I_W`: bits of the index register (R10). -/
abbrev iW : Nat := 16
/-- `PC_W`: bits of the program counter (R10). -/
abbrev pcW : Nat := 16
/-- `STACK_DEPTH`: entries of the call stack (R10, R26). -/
abbrev stackDepth : Nat := 16
/-- `STACK_W`: bits per stack entry (R10). -/
abbrev stackW : Nat := 16
/-- `SP_EMPTY`: SP as an integer when the stack is empty (R11, R25). -/
abbrev spEmpty : Int := -1
/-- `TIMER_W`: bits per timer (R10). -/
abbrev timerW : Nat := 8
/-- `FB_COLS`: framebuffer width in pixels (R10). -/
abbrev fbCols : Nat := 64
/-- `FB_ROWS`: framebuffer height in pixels (R10). -/
abbrev fbRows : Nat := 32
/-- `ROW_BYTES`: framebuffer bytes per pixel row (R10). -/
abbrev rowBytes : Nat := 8
/-- `FB_BYTES`: framebuffer bytes in all (R10). -/
abbrev fbBytes : Nat := 256
/-- `INSTR_BYTES`: bytes per instruction, the base PC increment (R10, R22). -/
abbrev instrBytes : Nat := 2
/-- `FLAG_REG`: index of VF, the register used as flag (R10, R19). -/
abbrev flagReg : Nat := 15
/-- `MAX_IMAGE`: the longest program image `Load` accepts (R11, R141). -/
abbrev maxImage : Nat := memSize - loadAddr

/-- `FX65_ADVANCES_I` (93_implementation_defined.md U1): Fx65 ends with I <- I + x + 1. Default true, rule R103. -/
def fx65AdvancesI : Bool := true

/-- `DRW_VF_ACCUMULATES` (93_implementation_defined.md U15): the collision flag of Dxyn is the OR over its rows.
Default true, rule R113; false would make the last row alone decide. -/
def drwVfAccumulates : Bool := true

end Sys2Proof.Config
end

