-- ==== Sys2Proof/Word.lean ====
section
/-! DEFINITION. The machine's words (R10, R12, R17). Each width of R10 has a type of its own, whose width IS the value of
the Config field: `delta%` puts the field's value in its place when the file is read, so a change of the field changes
the type, and proofs see a numeral. Where a value crosses from one type to another, a named conversion of
Machine/Operands.lean carries it. -/

namespace Sys2Proof

/-- A byte: of memory, of the framebuffer, of the font, of an image, or an 8-bit immediate (R29, R39, R46, R60). -/
abbrev Byte := BitVec 8

/-- A 16-bit instruction word, the contents of OPCODE (R31, R57). -/
abbrev Word := BitVec 16

/-- The contents of a general register (`REG_W`). -/
abbrev Reg := BitVec (delta% Config.regW)

/-- The contents of a timer (`TIMER_W`). -/
abbrev Timer := BitVec (delta% Config.timerW)

/-- The contents of I (`I_W`). -/
abbrev IndexWord := BitVec (delta% Config.iW)

/-- The contents of PC (`PC_W`). -/
abbrev PcWord := BitVec (delta% Config.pcW)

/-- The contents of a stack entry (`STACK_W`). -/
abbrev StackWord := BitVec (delta% Config.stackW)

/-- The index of a general register (`NREGS`, R17). -/
abbrev RegIdx := Fin (delta% Config.nregs)

/-- The index of a stack entry (`STACK_DEPTH`, R26). -/
abbrev StackIdx := Fin (delta% Config.stackDepth)

/-- VF, the flag register (`FLAG_REG`, R14, R19): one of the `NREGS` registers. -/
def RegIdx.vf : RegIdx := ⟨delta% Config.flagReg, by decide⟩

end Sys2Proof
end

