-- ==== Sys2Proof/Machine/Font.lean ====
section
/-! DEFINITION. The font table `FONT` (70_reset_and_hazards.md R140) and the reset contents of memory (R35, R139). -/

namespace Sys2Proof

/-- Digits 0 to 3. The source document gives the bytes of digit 0 only; those of 1 to F are general knowledge by the
spec's own mark (PRESUMED, R140, D21). -/
def Config.fontDigits0to3 : List Byte :=
  [0xF0, 0x90, 0x90, 0x90, 0xF0] ++ [0x20, 0x60, 0x20, 0x20, 0x70] ++
  [0xF0, 0x10, 0xF0, 0x80, 0xF0] ++ [0xF0, 0x10, 0xF0, 0x10, 0xF0]

/-- Digits 4 to 7 (PRESUMED, R140). -/
def Config.fontDigits4to7 : List Byte :=
  [0x90, 0x90, 0xF0, 0x10, 0x10] ++ [0xF0, 0x80, 0xF0, 0x10, 0xF0] ++
  [0xF0, 0x80, 0xF0, 0x90, 0xF0] ++ [0xF0, 0x10, 0x20, 0x40, 0x40]

/-- Digits 8 to B (PRESUMED, R140). -/
def Config.fontDigits8toB : List Byte :=
  [0xF0, 0x90, 0xF0, 0x90, 0xF0] ++ [0xF0, 0x90, 0xF0, 0x10, 0xF0] ++
  [0xF0, 0x90, 0xF0, 0x90, 0x90] ++ [0xE0, 0x90, 0xE0, 0x90, 0xE0]

/-- Digits C to F (PRESUMED, R140). -/
def Config.fontDigitsCtoF : List Byte :=
  [0xF0, 0x80, 0x80, 0x80, 0xF0] ++ [0xE0, 0x90, 0x90, 0x90, 0xE0] ++
  [0xF0, 0x80, 0xF0, 0x80, 0xF0] ++ [0xF0, 0x80, 0xF0, 0x80, 0x80]

/-- `FONT[0..79]`: sixteen glyphs of five bytes, glyph d at offset 5 d (R50, R140). -/
def Config.font : List Byte :=
  Config.fontDigits0to3 ++ Config.fontDigits4to7 ++ Config.fontDigits8toB ++ Config.fontDigitsCtoF

/-- What memory holds at an address after `Reset`, and so what an unlisted address reads as: the font from
`FONT_BASE` on, 0x00 everywhere else (R35, R48). -/
def Config.resetByte (a : Nat) : Byte :=
  if a < Config.fontBase then 0 else (Config.font[a - Config.fontBase]?).getD 0

end Sys2Proof
end

