-- ==== Sys2Proof/Syntax.lean ====
section
/-! DEFINITION. The 30 instructions of 30_encoding.md R63, one constructor per row of the opcode table.
Fields the machine ignores (R62, R66) are kept, so an instruction holds every bit of its word. -/

namespace Sys2Proof

/-- An instruction. Field names are those of 00_scope.md R14; `z` is the unexamined low nibble of 5xyN and 9xyN. -/
inductive Instr where
  /-- 00E0 CLS (R109). -/
  | cls
  /-- 00EE RET (R73). -/
  | ret
  /-- 1nnn JP nnn (R74). -/
  | jp (nnn : BitVec 12)
  /-- 2nnn CALL nnn (R75). -/
  | call (nnn : BitVec 12)
  /-- 3xkk SE Vx, kk (R76). -/
  | seImm (x : RegIdx) (kk : Byte)
  /-- 4xkk SNE Vx, kk (R77). -/
  | sneImm (x : RegIdx) (kk : Byte)
  /-- 5xy0 SE Vx, Vy (R78); `z` is not examined (R66). -/
  | seReg (x y : RegIdx) (z : BitVec 4)
  /-- 6xkk LD Vx, kk (R84). -/
  | ldImm (x : RegIdx) (kk : Byte)
  /-- 7xkk ADD Vx, kk (R85). -/
  | addImm (x : RegIdx) (kk : Byte)
  /-- 8xy0 LD Vx, Vy (R86). -/
  | ldReg (x y : RegIdx)
  /-- 8xy1 OR Vx, Vy (R87). -/
  | orReg (x y : RegIdx)
  /-- 8xy2 AND Vx, Vy (R88). -/
  | andReg (x y : RegIdx)
  /-- 8xy3 XOR Vx, Vy (R89). -/
  | xorReg (x y : RegIdx)
  /-- 8xy4 ADD Vx, Vy (R90). -/
  | addReg (x y : RegIdx)
  /-- 8xy5 SUB Vx, Vy (R91). -/
  | sub (x y : RegIdx)
  /-- 8xy6 SHR Vx (R92); `y` is not used (R62). -/
  | shr (x y : RegIdx)
  /-- 8xy7 SUBN Vx, Vy (R93). -/
  | subn (x y : RegIdx)
  /-- 8xyE SHL Vx (R94); `y` is not used (R62). -/
  | shl (x y : RegIdx)
  /-- 9xy0 SNE Vx, Vy (R79); `z` is not examined (R66). -/
  | sneReg (x y : RegIdx) (z : BitVec 4)
  /-- Annn LD I, nnn (R98). -/
  | ldI (nnn : BitVec 12)
  /-- Dxyn DRW Vx, Vy, n (R112); `n` is the height, 0 to 15 rows (R117). -/
  | drw (x y : RegIdx) (n : Fin 16)
  /-- Fx07 LD Vx, DT (R104). -/
  | ldVxDt (x : RegIdx)
  /-- Fx0A LD Vx, K (R105); `x` is not used. -/
  | ldVxK (x : RegIdx)
  /-- Fx15 LD DT, Vx (R106). -/
  | ldDtVx (x : RegIdx)
  /-- Fx18 LD ST, Vx (R107). -/
  | ldStVx (x : RegIdx)
  /-- Fx1E ADD I, Vx (R99). -/
  | addI (x : RegIdx)
  /-- Fx29 LD F, Vx (R100). -/
  | ldF (x : RegIdx)
  /-- Fx33 LD B, Vx (R101). -/
  | ldB (x : RegIdx)
  /-- Fx55 LD [I], Vx (R102). -/
  | ldMemVx (x : RegIdx)
  /-- Fx65 LD Vx, [I] (R103). -/
  | ldVxMem (x : RegIdx)
  deriving DecidableEq, Repr

end Sys2Proof
end

