-- ==== Sys2Proof/Machine/State.lean ====
section
/-! DEFINITION. The machine's state (10_state.md R17 to R35), its reset value, and the reasons a step or a host
operation can be turned away. -/

namespace Sys2Proof.Machine

/-- MEM as plain data: the cells that differ from the reset contents, addresses strictly rising (`Memory.wf`). -/
abbrev Memory := List Host.Cell

/-- The fatal conditions of 60_exceptions.md R120. -/
inductive Cause where
  /-- Fx29 with Vx > 15. -/
  | invalidDigit
  /-- 2nnn with SP = 15. -/
  | stackOverflow
  /-- 00EE with SP = −1. -/
  | stackUnderflow
  /-- A memory address above 4095: fetch, Fx33, Fx55, Fx65, Dxyn. -/
  | outOfBoundsMemory
  /-- Dxyn beyond column 63 or row 31. -/
  | outOfBoundsFramebuffer
  deriving DecidableEq, Repr

/-- Everything the spec gives the machine (10_state.md, R17 to R33). -/
structure State where
  /-- V[0..15] (R17). -/
  v : Vector Reg Config.nregs
  /-- I (R24). -/
  i : IndexWord
  /-- PC (R21). -/
  pc : PcWord
  /-- SP (R25): `none` is the empty sentinel −1, `some k` the value k. -/
  sp : Option StackIdx
  /-- STACK[0..15] (R26). -/
  stack : Vector StackWord Config.stackDepth
  /-- DT (R28). -/
  dt : Timer
  /-- ST (R28). -/
  st : Timer
  /-- FB[0..255] (R29). -/
  fb : Vector Byte Config.fbBytes
  /-- MEM[0..4095] (R33), as the cells that differ from the reset contents. -/
  mem : Memory
  /-- OPCODE (R31). -/
  opcode : Word
  /-- HALT (R32). -/
  halt : Bool
  /-- CAUSE (R32, R123): 0 none, 1 to 5 the codes of `Cause.code`. -/
  cause : BitVec 3
  deriving DecidableEq, Repr

/-- Why a step would stop outside the machine's own states: never. A fatal condition of this machine is a state,
HALT with its CAUSE (R122, R129), so there is no constructor: no meaning and no step answers `fault`. -/
inductive Fault : Type
  deriving DecidableEq, Repr

/-- Why something is turned away. No instruction that has a meaning is refused; the last three are the host's misuse. -/
inductive Refusal where
  /-- An instruction with no meaning yet, raised by `exec`; safe. No arm uses it now. -/
  | notModelled (mnemonic : String)
  /-- `Load` of more than `MAX_IMAGE` bytes (R141, D20), raised by `load`; safe. -/
  | imageTooLong
  /-- `Load` in another state than the one `Reset` leaves (R141, U14; log 16), raised by `load`; safe. -/
  | loadNotAfterReset
  /-- `HostTimerWrite` of a value above the timer's (R134), raised by `lowerDt` and `lowerSt`; safe. -/
  | timerRaised
  deriving DecidableEq, Repr

/-- The machine right after `Reset` (R35, R139): all zero, PC at the load address, the stack empty, and memory at its
reset contents (font and zeros), from which no cell differs. -/
def State.reset : State where
  v := Vector.replicate Config.nregs 0
  i := 0
  pc := BitVec.ofNat (delta% Config.pcW) Config.loadAddr
  sp := none
  stack := Vector.replicate Config.stackDepth 0
  dt := 0
  st := 0
  fb := Vector.replicate Config.fbBytes 0
  mem := []
  opcode := 0
  halt := false
  cause := 0

end Sys2Proof.Machine
end

