-- ==== Sys2Proof/Machine/Memory.lean ====
section
/-! DEFINITION. Memory as a canonical list of cells: its form, the read and the write of one byte (20_memory.md R39,
R46, R47), and the store of a run of bytes. The bound of R40 is checked by the callers (R96), before any effect. -/

namespace Sys2Proof.Machine

/-- The first listed byte at `a`, else what an unlisted address reads as. -/
def Memory.read : Memory → Nat → Byte
  | [], a => Config.resetByte a
  | (k, b) :: m, a => if k = a then b else Memory.read m a

/-- A cell put in front of the first cell with a higher address. -/
def Memory.insert (a : Nat) (b : Byte) : Memory → Memory
  | [] => [(a, b)]
  | (k, c) :: m => if a < k then (a, b) :: (k, c) :: m else (k, c) :: Memory.insert a b m

/-- The memory with no cell listed at `a`. -/
def Memory.erase (a : Nat) (m : Memory) : Memory := m.filter (fun c => c.1 != a)

/-- Write one byte: exactly the addressed byte changes (R47). A byte that an unlisted address would read as is not
listed. -/
def Memory.write (m : Memory) (a : Nat) (b : Byte) : Memory :=
  if b = Config.resetByte a then Memory.erase a m else Memory.insert a b (Memory.erase a m)

/-- Write a run of bytes at `a`, `a + 1`, …, ascending (R47, D31). -/
def Memory.writeBytes (m : Memory) (a : Nat) : List Byte → Memory
  | [] => m
  | b :: bs => Memory.writeBytes (Memory.write m a b) (a + 1) bs

/-- The cells lie at addresses `lo` or above, strictly rising, below `MEM_SIZE`, and none reads as an unlisted address
would. -/
def Memory.wfFrom (lo : Nat) : Memory → Bool
  | [] => true
  | (k, b) :: m => decide (lo ≤ k) && decide (k < Config.memSize) && (b != Config.resetByte k) && Memory.wfFrom (k + 1) m

/-- The canonical form: equal memories are equal lists. -/
def Memory.wf (m : Memory) : Bool := Memory.wfFrom 0 m

end Sys2Proof.Machine
end

