-- ==== Sys2Proof/Machine/Ops.lean ====
section
/-! DEFINITION. The named operations every meaning is written with: reads and writes of each piece of state, the PC
updates of 10_state.md R22, the call stack of R25 to R27, the framebuffer bytes and pixels of R29, and the fatal entry of
60_exceptions.md R122, which is this machine's one way of taking an exception. There is no return from it (R129): only
`Reset` leaves the halted state. -/

namespace Sys2Proof.Machine

/-! ### Registers -/

/-- `V[x]` (R13). -/
def State.getV (s : State) (x : RegIdx) : Reg := s.v[x.val]
/-- `V[x] <- b` (R13). -/
def State.setV (s : State) (x : RegIdx) (b : Reg) : State := { s with v := s.v.set x.val b }
/-- All sixteen general registers at once. -/
def State.setRegs (s : State) (v : Vector Reg Config.nregs) : State := { s with v := v }
/-- `I <- a`. -/
def State.setI (s : State) (a : IndexWord) : State := { s with i := a }
/-- `DT <- b`. -/
def State.setDt (s : State) (b : Timer) : State := { s with dt := b }
/-- `ST <- b`. -/
def State.setSt (s : State) (b : Timer) : State := { s with st := b }
/-- `OPCODE <- w`. -/
def State.setOpcode (s : State) (w : Word) : State := { s with opcode := w }

/-! ### Program counter (R22) -/

/-- `PC <- target`. -/
def State.setPc (s : State) (target : PcWord) : State := { s with pc := target }
/-- The base increment: `PC <- PC + 2`. -/
def State.advance (s : State) : State := s.setPc (s.pc + BitVec.ofNat (delta% Config.pcW) Config.instrBytes)
/-- A conditional skip: the base increment, and one more when the condition holds (R22, R80). -/
def State.skipIf (s : State) (c : Bool) : State := if c then s.advance.advance else s.advance

/-! ### Call stack (R25 to R27) -/

/-- SP as the integer of R25: −1 when empty. -/
def State.spInt (s : State) : Int := match s.sp with | none => delta% Config.spEmpty | some k => k.val
/-- SP as the 5-bit two's complement pattern of R25 (D3). -/
def State.spBits (s : State) : BitVec 5 := BitVec.ofInt 5 s.spInt
/-- `SP <- p`. -/
def State.setSp (s : State) (p : Option StackIdx) : State := { s with sp := p }
/-- `STACK[k]`. -/
def State.stackAt (s : State) (k : StackIdx) : StackWord := s.stack[k.val]
/-- `STACK[k] <- a`. -/
def State.setStackAt (s : State) (k : StackIdx) (a : StackWord) : State := { s with stack := s.stack.set k.val a }
/-- The slot a push writes, SP + 1; none when the stack is full (SP = `STACK_DEPTH` − 1). -/
def slotAbove : Option StackIdx → Option StackIdx
  | none => some 0
  | some k => if h : k.val + 1 < delta% Config.stackDepth then some ⟨k.val + 1, h⟩ else none
/-- SP after a pop from SP = k: k − 1, which is the empty sentinel for k = 0. -/
def spBelow (k : StackIdx) : Option StackIdx :=
  if k.val = 0 then none else some ⟨k.val - 1, by omega⟩

/-! ### Memory -/

/-- The byte memory holds at `a`. -/
def State.readByte (s : State) (a : Nat) : Byte := s.mem.read a
/-- `MEM[a], MEM[a+1], … <- bs`. -/
def State.storeBytes (s : State) (a : Nat) (bs : List Byte) : State := { s with mem := s.mem.writeBytes a bs }

/-! ### Framebuffer (R29) -/

/-- The whole framebuffer at once. -/
def State.setFb (s : State) (fb : Vector Byte Config.fbBytes) : State := { s with fb := fb }
/-- `FB[k]`. No meaning asks for k above 255 (log 20). -/
def fbByte (fb : Vector Byte Config.fbBytes) (k : Nat) : Byte := (fb[k]?).getD 0
/-- `FB[k] <- b`. -/
def fbSet (fb : Vector Byte Config.fbBytes) (k : Nat) (b : Byte) : Vector Byte Config.fbBytes := fb.setIfInBounds k b
/-- The pixel at column c and row r: bit 7 − (c mod 8) of FB[8 r + (c div 8)]. -/
def fbPixel (fb : Vector Byte Config.fbBytes) (c r : Nat) : Bool :=
  (fbByte fb (r * Config.rowBytes + c / 8)).getLsbD (7 - c % 8)

/-! ### Fatal entry (R122 to R124) -/

/-- The cause codes of R123. -/
def Cause.code : Cause → BitVec 3
  | .invalidDigit => 1
  | .stackOverflow => 2
  | .stackUnderflow => 3
  | .outOfBoundsMemory => 4
  | .outOfBoundsFramebuffer => 5

/-- `raise Fatal(c)`: HALT <- 1, CAUSE <- c, and nothing else (R122, R124). -/
def State.raiseFatal (s : State) (c : Cause) : State := { s with halt := true, cause := c.code }

/-- A meaning that ends in a fatal condition: a next state, the halted one. It is given the state before the
instruction, so nothing the instruction would write is kept (R124). -/
def State.fatal (s : State) (c : Cause) : Host.Outcome State Fault Refusal := .next (s.raiseFatal c)

end Sys2Proof.Machine
end

