-- ==== Sys2Proof/Machine/Flags.lean ====
section
/-! DEFINITION. The values VF receives as a flag (10_state.md R19; 41_alu.md R90 to R94; 44_display.md R113): always 0
or 1. -/

namespace Sys2Proof.Machine

/-- A condition as a flag value: 1 or 0. -/
def flagByte (c : Bool) : Reg := if c then 1 else 0

/-- The carry out of an exact sum of two register values (R90): 1 if it exceeds 255, the largest such value. -/
def carryFlag (sum : Nat) : Reg := flagByte (decide (sum ≥ 2 ^ delta% Config.regW))

/-- The strict comparison of 8xy5 and 8xy7 (R91, R93): 1 if a > b; equal operands give 0 (C1). -/
def greaterFlag (a b : Reg) : Reg := flagByte (decide (a.toNat > b.toNat))

/-- Bit 0, reported by both shifts before they shift (R92, R94). -/
def lowBitFlag (a : Reg) : Reg := a &&& 1

/-- The collision test of one byte (R113): a lit pixel cleared, `old & ~new` not zero. -/
def clearsPixel (old new : Byte) : Bool := (old &&& ~~~new) != 0

/-- `VF <- f`. -/
def State.setFlag (s : State) (f : Reg) : State := s.setV RegIdx.vf f

end Sys2Proof.Machine
end

