-- ==== Sys2Proof/Machine/Operands.lean ====
section
/-! DEFINITION. Operand forms (30_encoding.md R61, R62; 42_index_memory.md R96): registers are direct (`State.getV`),
immediates are used unsigned as they stand, memory is reached through I alone. -/

namespace Sys2Proof.Machine

/-! ### From one width to another: zero-extended, the value itself at the widths of R10 -/

/-- A 12-bit address as a value of PC (R61). -/
def pcOfAddress (nnn : BitVec 12) : PcWord := nnn.setWidth (delta% Config.pcW)
/-- A 12-bit address as a value of I (R61). -/
def indexOfAddress (nnn : BitVec 12) : IndexWord := nnn.setWidth (delta% Config.iW)
/-- A byte as a register value: an immediate (R61) or a byte loaded from memory (R46). -/
def regOfByte (b : Byte) : Reg := b.setWidth (delta% Config.regW)
/-- A register value as the byte that is stored (R46). -/
def byteOfReg (r : Reg) : Byte := r.setWidth 8
/-- A register value as a timer value (R106, R107). -/
def timerOfReg (r : Reg) : Timer := r.setWidth (delta% Config.timerW)
/-- A timer value as a register value (R104). -/
def regOfTimer (t : Timer) : Reg := t.setWidth (delta% Config.regW)
/-- A register value as an addend of I (R99). -/
def indexOfReg (r : Reg) : IndexWord := r.setWidth (delta% Config.iW)
/-- PC as a return address (R75). -/
def stackOfPc (p : PcWord) : StackWord := p.setWidth (delta% Config.stackW)
/-- A return address as a value of PC (R73). -/
def pcOfStack (a : StackWord) : PcWord := a.setWidth (delta% Config.pcW)

/-! ### Addresses and register ranges -/

/-- The effective address of element k: `EA(k) = I + k`, an exact integer (R96). -/
def State.ea (s : State) (k : Nat) : Nat := s.i.toNat + k

/-- Whether a memory address is outside the 4096 bytes (R40). -/
def outOfMemory (a : Nat) : Bool := decide (a ≥ Config.memSize)

/-- The registers `V[0]` to `V[x]`, the operand range of Fx55 (R102). -/
def State.regsUpTo (s : State) (x : RegIdx) : List Byte := (s.v.toList.take (x.val + 1)).map byteOfReg

/-- The register file after `V[k] <- MEM[base + k]` for k = 0 to n − 1, ascending (R103). -/
def loadRegs (m : Memory) (base : Nat) (v : Vector Reg Config.nregs) : Nat → Vector Reg Config.nregs
  | 0 => v
  | n + 1 => (loadRegs m base v n).setIfInBounds n (regOfByte (m.read (base + n)))

/-- The three decimal digits of a register value, hundreds first (R101). -/
def bcdDigits (b : Reg) : List Byte :=
  [BitVec.ofNat 8 (b.toNat / 100), BitVec.ofNat 8 (b.toNat / 10 % 10), BitVec.ofNat 8 (b.toNat % 10)]

end Sys2Proof.Machine
end

