-- ==== Sys2Proof/Machine/Alu.lean ====
section
/-! DEFINITION. Register load, arithmetic and logic (41_alu.md R84 to R94). Where an instruction writes both VF and Vx,
the clauses run in the order of R83, each reading the registers as the one before left them (D9). -/

namespace Sys2Proof.Machine

/-- 6xkk LD Vx, kk (R84). -/
def execLdImm (x : RegIdx) (kk : Byte) (s : State) : Host.Outcome State Fault Refusal :=
  .next (s.setV x (regOfByte kk)).advance

/-- 7xkk ADD Vx, kk (R85): modulo 256, no flag. -/
def execAddImm (x : RegIdx) (kk : Byte) (s : State) : Host.Outcome State Fault Refusal :=
  .next (s.setV x (s.getV x + regOfByte kk)).advance

/-- 8xy0 LD Vx, Vy (R86). -/
def execLdReg (x y : RegIdx) (s : State) : Host.Outcome State Fault Refusal :=
  .next (s.setV x (s.getV y)).advance

/-- 8xy1 OR Vx, Vy (R87). -/
def execOrReg (x y : RegIdx) (s : State) : Host.Outcome State Fault Refusal :=
  .next (s.setV x (s.getV x ||| s.getV y)).advance

/-- 8xy2 AND Vx, Vy (R88). -/
def execAndReg (x y : RegIdx) (s : State) : Host.Outcome State Fault Refusal :=
  .next (s.setV x (s.getV x &&& s.getV y)).advance

/-- 8xy3 XOR Vx, Vy (R89). -/
def execXorReg (x y : RegIdx) (s : State) : Host.Outcome State Fault Refusal :=
  .next (s.setV x (s.getV x ^^^ s.getV y)).advance

/-- 8xy4 ADD Vx, Vy (R90): the exact sum of the old operands; VF takes its carry, then Vx its low 8 bits. -/
def execAddReg (x y : RegIdx) (s : State) : Host.Outcome State Fault Refusal :=
  let sum := (s.getV x).toNat + (s.getV y).toNat
  .next ((s.setFlag (carryFlag sum)).setV x (BitVec.ofNat (delta% Config.regW) sum)).advance

/-- 8xy5 SUB Vx, Vy (R91): VF takes Vx > Vy, then Vx the difference of the registers as they now stand. -/
def execSub (x y : RegIdx) (s : State) : Host.Outcome State Fault Refusal :=
  let s1 := s.setFlag (greaterFlag (s.getV x) (s.getV y))
  .next (s1.setV x (s1.getV x - s1.getV y)).advance

/-- 8xy6 SHR Vx (R92): VF takes bit 0 of Vx, then Vx as it now stands is shifted right; y is not used. -/
def execShr (x _y : RegIdx) (s : State) : Host.Outcome State Fault Refusal :=
  let s1 := s.setFlag (lowBitFlag (s.getV x))
  .next (s1.setV x (s1.getV x >>> 1)).advance

/-- 8xy7 SUBN Vx, Vy (R93): VF takes Vy > Vx, then Vx the reversed difference of the registers as they now stand. -/
def execSubn (x y : RegIdx) (s : State) : Host.Outcome State Fault Refusal :=
  let s1 := s.setFlag (greaterFlag (s.getV y) (s.getV x))
  .next (s1.setV x (s1.getV y - s1.getV x)).advance

/-- 8xyE SHL Vx (R94): VF takes bit 0 of Vx, NOT bit 7, then Vx as it now stands is shifted left; y is not used. -/
def execShl (x _y : RegIdx) (s : State) : Host.Outcome State Fault Refusal :=
  let s1 := s.setFlag (lowBitFlag (s.getV x))
  .next (s1.setV x (s1.getV x <<< 1)).advance

end Sys2Proof.Machine
end

