-- ==== Sys2Proof/Machine/Display.lean ====
section
/-! DEFINITION. Display: clear and sprite compositing (44_display.md R109 to R117). -/

namespace Sys2Proof.Machine

/-- 00E0 CLS (R109). -/
def execCls (s : State) : Host.Outcome State Fault Refusal :=
  .next (s.setFb (Vector.replicate Config.fbBytes 0)).advance

/-- The checks of `Dxyn` from sprite row `row` on, `rows` rows still to go (R112, R114): rows ascending, the memory
address of a row before its framebuffer position; the first that fails is the cause (R128). -/
def drawCheck (base px py row : Nat) : Nat → Option Cause
  | 0 => none
  | rows + 1 =>
    if outOfMemory (base + row) then some .outOfBoundsMemory
    else if px ≥ Config.fbCols ∨ py + row ≥ Config.fbRows then some .outOfBoundsFramebuffer
    else drawCheck base px py (row + 1) rows

/-- The part of a sprite byte that falls in the first touched byte: `b >> s` (R111). -/
def spriteHigh (px : Nat) (b : Byte) : Byte := b >>> (px % 8)
/-- The part that falls in the second touched byte: `b << (8 − s)`, 0 when s = 0 (R111, D12). -/
def spriteLow (px : Nat) (b : Byte) : Byte := b <<< (8 - px % 8)
/-- The index of the first touched byte in framebuffer row r (R111). -/
def firstTouched (px r : Nat) : Nat := Config.rowBytes * r + px / 8
/-- The index of the second touched byte: the next column of the same row, wrapping 7 to 0 (R111, R115). -/
def secondTouched (px r : Nat) : Nat := Config.rowBytes * r + (px / 8 + 1) % Config.rowBytes

/-- XOR one part into one framebuffer byte; the flag says whether a lit pixel was cleared (R112, R113). -/
def blend (fb : Vector Byte Config.fbBytes) (k : Nat) (part : Byte) : Vector Byte Config.fbBytes × Bool :=
  (fbSet fb k (fbByte fb k ^^^ part), clearsPixel (fbByte fb k) (fbByte fb k ^^^ part))

/-- Composite one sprite byte at column px of row r (R111, R112). -/
def drawRow (px r : Nat) (b : Byte) (fb : Vector Byte Config.fbBytes) : Vector Byte Config.fbBytes × Bool :=
  let one := blend fb (firstTouched px r) (spriteHigh px b)
  let two := blend one.1 (secondTouched px r) (spriteLow px b)
  (two.1, one.2 || two.2)

/-- Composite the rows from `row` on, `rows` of them still to go; the collision is the OR over the rows
(`DRW_VF_ACCUMULATES`, R113). -/
def drawRows (m : Memory) (base px py row : Nat) (fb : Vector Byte Config.fbBytes) (hit : Bool) :
    Nat → Vector Byte Config.fbBytes × Bool
  | 0 => (fb, hit)
  | rows + 1 =>
    let drawn := drawRow px (py + row) (m.read (base + row)) fb
    drawRows m base px py (row + 1) drawn.1 ((Config.drwVfAccumulates && hit) || drawn.2) rows

/-- Dxyn DRW Vx, Vy, n (R112): position from Vx and Vy before anything is written (R110); all checks, then all rows,
then VF <- collision. With n = 0 nothing is checked or drawn and VF <- 0 (R117). -/
def execDrw (x y : RegIdx) (n : Fin 16) (s : State) : Host.Outcome State Fault Refusal :=
  let px := (s.getV x).toNat
  let py := (s.getV y).toNat
  match drawCheck (s.ea 0) px py 0 n.val with
  | some c => s.fatal c
  | none =>
    let drawn := drawRows s.mem (s.ea 0) px py 0 s.fb false n.val
    .next ((s.setFb drawn.1).setFlag (flagByte drawn.2)).advance

end Sys2Proof.Machine
end

