-- ==== Sys2Proof/Machine/Flow.lean ====
section
/-! DEFINITION. Control transfer (40_flow.md R73 to R80). -/

namespace Sys2Proof.Machine

/-- 00EE RET (R73): `PC <- STACK[SP] + 2; SP <- SP − 1`; the popped entry keeps its value (R27). -/
def execRet (s : State) : Host.Outcome State Fault Refusal :=
  match s.sp with
  | none => s.fatal .stackUnderflow
  | some k => .next ((s.setPc (pcOfStack (s.stackAt k))).advance.setSp (spBelow k))

/-- 1nnn JP nnn (R74). -/
def execJp (nnn : BitVec 12) (s : State) : Host.Outcome State Fault Refusal :=
  .next (s.setPc (pcOfAddress nnn))

/-- 2nnn CALL nnn (R75): the pushed value is the address of this instruction, not PC + 2. -/
def execCall (nnn : BitVec 12) (s : State) : Host.Outcome State Fault Refusal :=
  match slotAbove s.sp with
  | none => s.fatal .stackOverflow
  | some k => .next (((s.setSp (some k)).setStackAt k (stackOfPc s.pc)).setPc (pcOfAddress nnn))

/-- 3xkk SE Vx, kk (R76). -/
def execSeImm (x : RegIdx) (kk : Byte) (s : State) : Host.Outcome State Fault Refusal :=
  .next (s.skipIf (s.getV x == regOfByte kk))

/-- 4xkk SNE Vx, kk (R77). -/
def execSneImm (x : RegIdx) (kk : Byte) (s : State) : Host.Outcome State Fault Refusal :=
  .next (s.skipIf (s.getV x != regOfByte kk))

/-- 5xy0 SE Vx, Vy (R78); the low nibble is not examined (R66). -/
def execSeReg (x y : RegIdx) (_z : BitVec 4) (s : State) : Host.Outcome State Fault Refusal :=
  .next (s.skipIf (s.getV x == s.getV y))

/-- 9xy0 SNE Vx, Vy (R79); the low nibble is not examined (R66). -/
def execSneReg (x y : RegIdx) (_z : BitVec 4) (s : State) : Host.Outcome State Fault Refusal :=
  .next (s.skipIf (s.getV x != s.getV y))

end Sys2Proof.Machine
end

