-- ==== Sys2Proof/Machine/Index.lean ====
section
/-! DEFINITION. Index register and memory instructions (42_index_memory.md R98 to R103). All addresses of an
instruction are checked before any of its effects (R96, R124). -/

namespace Sys2Proof.Machine

/-- Annn LD I, nnn (R98). -/
def execLdI (nnn : BitVec 12) (s : State) : Host.Outcome State Fault Refusal :=
  .next (s.setI (indexOfAddress nnn)).advance

/-- Fx1E ADD I, Vx (R99): modulo 2^16, VF untouched (D15). -/
def execAddI (x : RegIdx) (s : State) : Host.Outcome State Fault Refusal :=
  .next (s.setI (s.i + indexOfReg (s.getV x))).advance

/-- Fx29 LD F, Vx (R100): the whole of Vx is tested, not its low nibble. -/
def execLdF (x : RegIdx) (s : State) : Host.Outcome State Fault Refusal :=
  if (s.getV x).toNat ≥ Config.fontDigits then s.fatal .invalidDigit
  else .next (s.setI (BitVec.ofNat (delta% Config.iW) (Config.fontBase + Config.glyphBytes * (s.getV x).toNat))).advance

/-- Fx33 LD B, Vx (R101): hundreds, tens, units at I, I + 1, I + 2; I is unchanged. -/
def execLdB (x : RegIdx) (s : State) : Host.Outcome State Fault Refusal :=
  if outOfMemory (s.ea 2) then s.fatal .outOfBoundsMemory
  else .next (s.storeBytes (s.ea 0) (bcdDigits (s.getV x))).advance

/-- Fx55 LD [I], Vx (R102): V[0] to V[x] at I, I + 1, …; I is unchanged. -/
def execLdMemVx (x : RegIdx) (s : State) : Host.Outcome State Fault Refusal :=
  if outOfMemory (s.ea x.val) then s.fatal .outOfBoundsMemory
  else .next (s.storeBytes (s.ea 0) (s.regsUpTo x)).advance

/-- Fx65 LD Vx, [I] (R103): V[0] to V[x] from I, I + 1, …; then I <- I + x + 1 (`FX65_ADVANCES_I`). -/
def execLdVxMem (x : RegIdx) (s : State) : Host.Outcome State Fault Refusal :=
  if outOfMemory (s.ea x.val) then s.fatal .outOfBoundsMemory
  else
    let s1 := s.setRegs (loadRegs s.mem (s.ea 0) s.v (x.val + 1))
    .next (if Config.fx65AdvancesI then s1.setI (BitVec.ofNat (delta% Config.iW) (s.ea (x.val + 1))) else s1).advance

end Sys2Proof.Machine
end

