-- ==== Sys2Proof/Machine/Timer.lean ====
section
/-! DEFINITION. Timer access and the key placeholder (43_timers_key.md R104 to R107). -/

namespace Sys2Proof.Machine

/-- Fx07 LD Vx, DT (R104). -/
def execLdVxDt (x : RegIdx) (s : State) : Host.Outcome State Fault Refusal :=
  .next (s.setV x (regOfTimer s.dt)).advance

/-- Fx0A LD Vx, K (R105): a no-op that only advances PC; Vx is not written and x is not used. -/
def execLdVxK (_x : RegIdx) (s : State) : Host.Outcome State Fault Refusal :=
  .next s.advance

/-- Fx15 LD DT, Vx (R106). -/
def execLdDtVx (x : RegIdx) (s : State) : Host.Outcome State Fault Refusal :=
  .next (s.setDt (timerOfReg (s.getV x))).advance

/-- Fx18 LD ST, Vx (R107). -/
def execLdStVx (x : RegIdx) (s : State) : Host.Outcome State Fault Refusal :=
  .next (s.setSt (timerOfReg (s.getV x))).advance

end Sys2Proof.Machine
end

