-- ==== Sys2Proof/WellFormed.lean ====
section
/-! DEFINITION. Well-formed instructions: the canonical ones, those an assembler emits (30_encoding.md R66, R71).
Every other bound of an instruction's fields is its type: a register index is a `Fin 16`, an immediate a `BitVec`.
The machine runs the other instructions all the same, with the same effect (log 21): no meaning, no statement of
decoding and no statement about `step` asks for well-formedness. -/

namespace Sys2Proof

/-- The canonical form (DEDUCED from R66 and R71): the unexamined low nibble of 5xyN and 9xyN is 0, and so is the
unused y field of 8xy6 and 8xyE. -/
def Instr.wellFormed : Instr → Bool
  | .seReg _ _ z => z == 0
  | .sneReg _ _ z => z == 0
  | .shr _ y => y == 0
  | .shl _ y => y == 0
  | .cls | .ret | .jp _ | .call _ | .seImm _ _ | .sneImm _ _ | .ldImm _ _ | .addImm _ _ | .ldReg _ _
  | .orReg _ _ | .andReg _ _ | .xorReg _ _ | .addReg _ _ | .sub _ _ | .subn _ _ | .ldI _ | .drw _ _ _
  | .ldVxDt _ | .ldVxK _ | .ldDtVx _ | .ldStVx _ | .addI _ | .ldF _ | .ldB _ | .ldMemVx _ | .ldVxMem _ => true

end Sys2Proof
end

