-- ==== Sys2Proof/Decode.lean ====
section
/-! DEFINITION. Decoding and encoding (30_encoding.md R57 to R70): the fields of a word, the two-level dispatch, the
opcode table of R63 as rows, and the encoder written from the same table. -/

namespace Sys2Proof

/-! ### Fields of a word (R60) -/

/-- `op = w[15:12]`, the primary dispatch key. -/
def fieldOp (w : Word) : BitVec 4 := w.extractLsb' 12 4
/-- A register index from its 4-bit field: every value is the index of a register (R17, R62). -/
def regOfField (f : BitVec 4) : RegIdx := ⟨f.toNat, Nat.lt_of_lt_of_le f.isLt (by decide)⟩
/-- `x = w[11:8]`, the index of Vx. -/
def fieldX (w : Word) : RegIdx := regOfField (w.extractLsb' 8 4)
/-- `y = w[7:4]`, the index of Vy. -/
def fieldY (w : Word) : RegIdx := regOfField (w.extractLsb' 4 4)
/-- `n = w[3:0]`, sprite height, sub-opcode or unexamined nibble. -/
def fieldN (w : Word) : BitVec 4 := w.extractLsb' 0 4
/-- `kk = w[7:0]`, immediate or function byte. -/
def fieldKk (w : Word) : Byte := w.extractLsb' 0 8
/-- `nnn = w[11:0]`, address. -/
def fieldNnn (w : Word) : BitVec 12 := w.extractLsb' 0 12

/-! ### Decoding -/

/-- Why a word is no instruction. -/
inductive Unrecognised where
  /-- Top nibble 0xB, 0xC or 0xE (R67). -/
  | topNibble
  /-- Top nibble 0 and neither 0x00E0 nor 0x00EE (R68). -/
  | group0
  /-- Top nibble 8 and an undefined low nibble (R68). -/
  | group8
  /-- Top nibble F and an undefined low byte (R68). -/
  | groupF
  deriving DecidableEq, Repr

/-- Why a list of bytes gives no instruction. -/
inductive Reject where
  /-- Fewer than two bytes: every instruction is two bytes (R57). -/
  | truncated
  /-- The word is unrecognised. -/
  | unrecognised (why : Unrecognised)
  deriving DecidableEq, Repr

/-- Group 0 matches the whole word (R65, D7). -/
def decodeGroup0 (w : Word) : Except Unrecognised Instr :=
  if w = 0x00E0#16 then .ok .cls
  else if w = 0x00EE#16 then .ok .ret
  else .error .group0

/-- Group 8 dispatches on the low nibble (R65). -/
def decodeGroup8 (w : Word) : Except Unrecognised Instr :=
  match (fieldN w).toNat with
  | 0x0 => .ok (.ldReg (fieldX w) (fieldY w))
  | 0x1 => .ok (.orReg (fieldX w) (fieldY w))
  | 0x2 => .ok (.andReg (fieldX w) (fieldY w))
  | 0x3 => .ok (.xorReg (fieldX w) (fieldY w))
  | 0x4 => .ok (.addReg (fieldX w) (fieldY w))
  | 0x5 => .ok (.sub (fieldX w) (fieldY w))
  | 0x6 => .ok (.shr (fieldX w) (fieldY w))
  | 0x7 => .ok (.subn (fieldX w) (fieldY w))
  | 0xE => .ok (.shl (fieldX w) (fieldY w))
  | _ => .error .group8

/-- Group F dispatches on the low byte (R65). -/
def decodeGroupF (w : Word) : Except Unrecognised Instr :=
  if fieldKk w = 0x07#8 then .ok (.ldVxDt (fieldX w))
  else if fieldKk w = 0x0A#8 then .ok (.ldVxK (fieldX w))
  else if fieldKk w = 0x15#8 then .ok (.ldDtVx (fieldX w))
  else if fieldKk w = 0x18#8 then .ok (.ldStVx (fieldX w))
  else if fieldKk w = 0x1E#8 then .ok (.addI (fieldX w))
  else if fieldKk w = 0x29#8 then .ok (.ldF (fieldX w))
  else if fieldKk w = 0x33#8 then .ok (.ldB (fieldX w))
  else if fieldKk w = 0x55#8 then .ok (.ldMemVx (fieldX w))
  else if fieldKk w = 0x65#8 then .ok (.ldVxMem (fieldX w))
  else .error .groupF

/-- Decode one word: primary dispatch on the top nibble (R64), secondary dispatch in groups 0, 8 and F (R65);
groups 5 and 9 examine no low nibble (R66). -/
def decodeWord (w : Word) : Except Unrecognised Instr :=
  match (fieldOp w).toNat with
  | 0x0 => decodeGroup0 w
  | 0x1 => .ok (.jp (fieldNnn w))
  | 0x2 => .ok (.call (fieldNnn w))
  | 0x3 => .ok (.seImm (fieldX w) (fieldKk w))
  | 0x4 => .ok (.sneImm (fieldX w) (fieldKk w))
  | 0x5 => .ok (.seReg (fieldX w) (fieldY w) (fieldN w))
  | 0x6 => .ok (.ldImm (fieldX w) (fieldKk w))
  | 0x7 => .ok (.addImm (fieldX w) (fieldKk w))
  | 0x8 => decodeGroup8 w
  | 0x9 => .ok (.sneReg (fieldX w) (fieldY w) (fieldN w))
  | 0xA => .ok (.ldI (fieldNnn w))
  | 0xD => .ok (.drw (fieldX w) (fieldY w) (fieldN w).toFin)
  | 0xF => decodeGroupF w
  | _ => .error .topNibble

/-- Two bytes as a word, the first the high byte (20_memory.md R42). -/
def wordOfBytes (hi lo : Byte) : Word := BitVec.ofNat 16 (256 * hi.toNat + lo.toNat)
/-- The high byte of a word, the first in memory. -/
def highByte (w : Word) : Byte := w.extractLsb' 8 8
/-- The low byte of a word, the second in memory. -/
def lowByte (w : Word) : Byte := w.extractLsb' 0 8

/-- Decode the first instruction of a list of bytes and give the rest of the list back. -/
def decode : List Byte → Except Reject (Instr × List Byte)
  | hi :: lo :: rest =>
    match decodeWord (wordOfBytes hi lo) with
    | .ok i => .ok (i, rest)
    | .error why => .error (.unrecognised why)
  | _ => .error .truncated

/-! ### Encoding -/

/-- The word of four nibbles N3 N2 N1 N0 (R57). -/
def wordOfNibbles (n3 n2 n1 n0 : Nat) : Word := BitVec.ofNat 16 (0x1000 * n3 + 0x100 * n2 + 0x10 * n1 + n0)
/-- A format `A` word: op and a 12-bit address (R59). -/
def wordA (op : Nat) (nnn : BitVec 12) : Word := BitVec.ofNat 16 (0x1000 * op + nnn.toNat)
/-- A format `XK` or `XF` word: op, x and a low byte (R59). -/
def wordXK (op : Nat) (x : RegIdx) (kk : Byte) : Word := BitVec.ofNat 16 (0x1000 * op + 0x100 * x.val + kk.toNat)

/-- The word of an instruction, from the patterns of R63. -/
def encode : Instr → Word
  | .cls => 0x00E0#16
  | .ret => 0x00EE#16
  | .jp nnn => wordA 0x1 nnn
  | .call nnn => wordA 0x2 nnn
  | .seImm x kk => wordXK 0x3 x kk
  | .sneImm x kk => wordXK 0x4 x kk
  | .seReg x y z => wordOfNibbles 0x5 x.val y.val z.toNat
  | .ldImm x kk => wordXK 0x6 x kk
  | .addImm x kk => wordXK 0x7 x kk
  | .ldReg x y => wordOfNibbles 0x8 x.val y.val 0x0
  | .orReg x y => wordOfNibbles 0x8 x.val y.val 0x1
  | .andReg x y => wordOfNibbles 0x8 x.val y.val 0x2
  | .xorReg x y => wordOfNibbles 0x8 x.val y.val 0x3
  | .addReg x y => wordOfNibbles 0x8 x.val y.val 0x4
  | .sub x y => wordOfNibbles 0x8 x.val y.val 0x5
  | .shr x y => wordOfNibbles 0x8 x.val y.val 0x6
  | .subn x y => wordOfNibbles 0x8 x.val y.val 0x7
  | .shl x y => wordOfNibbles 0x8 x.val y.val 0xE
  | .sneReg x y z => wordOfNibbles 0x9 x.val y.val z.toNat
  | .ldI nnn => wordA 0xA nnn
  | .drw x y n => wordOfNibbles 0xD x.val y.val n.val
  | .ldVxDt x => wordXK 0xF x 0x07#8
  | .ldVxK x => wordXK 0xF x 0x0A#8
  | .ldDtVx x => wordXK 0xF x 0x15#8
  | .ldStVx x => wordXK 0xF x 0x18#8
  | .addI x => wordXK 0xF x 0x1E#8
  | .ldF x => wordXK 0xF x 0x29#8
  | .ldB x => wordXK 0xF x 0x33#8
  | .ldMemVx x => wordXK 0xF x 0x55#8
  | .ldVxMem x => wordXK 0xF x 0x65#8

/-- The two bytes of an instruction as they lie in memory, high byte first (R42, R57). -/
def encodeBytes (i : Instr) : List Byte := [highByte (encode i), lowByte (encode i)]

/-! ### The opcode table of R63 -/

/-- A row of the opcode table: a word w matches when `w & mask = pattern`. -/
structure OpcodeRow where
  mnemonic : String
  mask : Word
  pattern : Word
  deriving DecidableEq, Repr

def OpcodeRow.matches (r : OpcodeRow) (w : Word) : Bool := w &&& r.mask == r.pattern

/-- The row an instruction belongs to, with the mask and match values of R63. -/
def Instr.row : Instr → OpcodeRow
  | .cls => ⟨"CLS", 0xFFFF, 0x00E0⟩
  | .ret => ⟨"RET", 0xFFFF, 0x00EE⟩
  | .jp _ => ⟨"JP", 0xF000, 0x1000⟩
  | .call _ => ⟨"CALL", 0xF000, 0x2000⟩
  | .seImm _ _ => ⟨"SE_imm", 0xF000, 0x3000⟩
  | .sneImm _ _ => ⟨"SNE_imm", 0xF000, 0x4000⟩
  | .seReg _ _ _ => ⟨"SE_reg", 0xF000, 0x5000⟩
  | .ldImm _ _ => ⟨"LD_imm", 0xF000, 0x6000⟩
  | .addImm _ _ => ⟨"ADD_imm", 0xF000, 0x7000⟩
  | .ldReg _ _ => ⟨"LD_reg", 0xF00F, 0x8000⟩
  | .orReg _ _ => ⟨"OR", 0xF00F, 0x8001⟩
  | .andReg _ _ => ⟨"AND", 0xF00F, 0x8002⟩
  | .xorReg _ _ => ⟨"XOR", 0xF00F, 0x8003⟩
  | .addReg _ _ => ⟨"ADD_reg", 0xF00F, 0x8004⟩
  | .sub _ _ => ⟨"SUB", 0xF00F, 0x8005⟩
  | .shr _ _ => ⟨"SHR", 0xF00F, 0x8006⟩
  | .subn _ _ => ⟨"SUBN", 0xF00F, 0x8007⟩
  | .shl _ _ => ⟨"SHL", 0xF00F, 0x800E⟩
  | .sneReg _ _ _ => ⟨"SNE_reg", 0xF000, 0x9000⟩
  | .ldI _ => ⟨"LD_I", 0xF000, 0xA000⟩
  | .drw _ _ _ => ⟨"DRW", 0xF000, 0xD000⟩
  | .ldVxDt _ => ⟨"LD_Vx_DT", 0xF0FF, 0xF007⟩
  | .ldVxK _ => ⟨"LD_Vx_K", 0xF0FF, 0xF00A⟩
  | .ldDtVx _ => ⟨"LD_DT_Vx", 0xF0FF, 0xF015⟩
  | .ldStVx _ => ⟨"LD_ST_Vx", 0xF0FF, 0xF018⟩
  | .addI _ => ⟨"ADD_I", 0xF0FF, 0xF01E⟩
  | .ldF _ => ⟨"LD_F", 0xF0FF, 0xF029⟩
  | .ldB _ => ⟨"LD_B", 0xF0FF, 0xF033⟩
  | .ldMemVx _ => ⟨"LD_mem_Vx", 0xF0FF, 0xF055⟩
  | .ldVxMem _ => ⟨"LD_Vx_mem", 0xF0FF, 0xF065⟩

/-- One instruction of every row, in the order of R63. -/
def rowSamples : List Instr :=
  [.cls, .ret, .jp 0, .call 0, .seImm 0 0, .sneImm 0 0, .seReg 0 0 0, .ldImm 0 0, .addImm 0 0]
    ++ [.ldReg 0 0, .orReg 0 0, .andReg 0 0, .xorReg 0 0, .addReg 0 0, .sub 0 0, .shr 0 0, .subn 0 0, .shl 0 0]
    ++ [.sneReg 0 0 0, .ldI 0, .drw 0 0 0, .ldVxDt 0, .ldVxK 0, .ldDtVx 0, .ldStVx 0, .addI 0, .ldF 0, .ldB 0]
    ++ [.ldMemVx 0, .ldVxMem 0]

/-- The 30 rows of R63. -/
def opcodeTable : List OpcodeRow := rowSamples.map Instr.row

/-! ### The host's view of a table word -/

/-- The instruction the decoder reads from a word numbered as spec/opcode_table.json numbers it: the row's `nbits`
bits of `w`, all above them 0, laid out big-endian as memory holds them (R42) and given to `decode`. -/
def decodeTableWord (nbits w : Nat) : Option Instr :=
  let word : Word := BitVec.ofNat 16 (w % 2 ^ nbits)
  match decode [highByte word, lowByte word] with
  | .ok (i, _) => some i
  | .error _ => none

end Sys2Proof
end

