-- ==== Sys2Proof/Machine/Fetch.lean ====
section
/-! DEFINITION. The fetch part of a step and the decoding of what it fetched (20_memory.md R43; 00_scope.md R7;
60_exceptions.md R126, R128, R129), and the placing of a word where the next step fetches. -/

namespace Sys2Proof.Machine

/-- The word a fetch at PC reads: the byte at PC is the high byte (R42, R43). -/
def State.wordAtPc (s : State) : Word := wordOfBytes (s.readByte s.pc.toNat) (s.readByte (s.pc.toNat + 1))

/-- Fetch fails exactly when its second byte would be outside memory: PC > 4094 (R43). -/
def State.fetchFails (s : State) : Bool := decide (s.pc.toNat + 1 ≥ Config.memSize)

/-- What the step finds before it executes, each with the state it has by then. -/
inductive Fetched where
  /-- HALT = 1: the step does nothing at all (R129). -/
  | halted (s : State)
  /-- The fetch itself is fatal; OPCODE is as before (R43, D32). -/
  | fatal (s : State)
  /-- The word is unrecognised: the step reports it and ends (R126). -/
  | invalid (s : State)
  /-- The word is an instruction, to be executed. -/
  | run (i : Instr) (s : State)
  deriving DecidableEq, Repr

/-- Fetch and decode in the order of R128: the halted latch, the fetch bound, then decoding. -/
def fetchDecode (s : State) : Fetched :=
  if s.halt then .halted s
  else if s.fetchFails then .fatal (s.raiseFatal .outOfBoundsMemory)
  else
    let fetched := s.setOpcode s.wordAtPc
    match decodeWord fetched.opcode with
    | .error _ => .invalid fetched
    | .ok i => .run i fetched

/-- The output `invalid_opcode` of a step taken from this state (R6, R126): a signal of that step, not latched. -/
def State.invalidOpcode (s : State) : Bool :=
  match fetchDecode s with
  | .invalid _ => true
  | _ => false

/-- A state that can fetch: HALT clear, and PC at the load address where PC is outside what can be fetched. -/
def State.readyToFetch (s : State) : State :=
  { s with
    halt := false
    cause := if s.halt then 0 else s.cause
    pc := if s.fetchFails then BitVec.ofNat (delta% Config.pcW) Config.loadAddr else s.pc }

/-- A word stored big-endian at PC (R42). -/
def State.placeWordAtPc (s : State) (w : Word) : State := s.storeBytes s.pc.toNat [highByte w, lowByte w]

end Sys2Proof.Machine
end

