-- ==== Sys2Proof/Machine/Step.lean ====
section
/-! DEFINITION. One architectural step: fetch then execute, indivisible (00_scope.md R7). -/

namespace Sys2Proof.Machine

/-- `Step`. A halted machine stays as it is (R129); a fatal fetch halts it (R43); an unrecognised word is latched in
OPCODE and changes nothing else (R126); an instruction is executed with its word in OPCODE. -/
def step (s : State) : Host.Outcome State Fault Refusal :=
  match fetchDecode s with
  | .halted t => .next t
  | .fatal t => .next t
  | .invalid t => .next t
  | .run i t => exec i t

/-- `s` with the table word `w` (its low `nbits` bits) where the very next step fetches. In a state that can fetch, only
the two bytes at PC change; in one that cannot, HALT is cleared and PC brought back first (log 18). -/
def State.withFetchWord (s : State) (nbits w : Nat) : State :=
  s.readyToFetch.placeWordAtPc (BitVec.ofNat 16 (w % 2 ^ nbits))

end Sys2Proof.Machine
end

