-- ==== Sys2Proof/Machine/HostOps.lean ====
section
/-! DEFINITION. The host's side of the interface (00_scope.md R6): `Reset`, `Load`, `HostTimerWrite`, `ReadFB` and the
status outputs. `Step` is `Machine.step`. -/

namespace Sys2Proof.Machine

/-- `Reset`: the same state from any state, the halted one included (R139, D26). -/
def reset (_s : State) : State := State.reset

/-- `Load(image)` (R141): the bytes to `LOAD_ADDR` on, nothing else. Refused when the image is longer than `MAX_IMAGE`
(D20) and in any state but the one `Reset` leaves, since `Load` is defined only directly after it (D24, U14). That the
moment is known by the state alone is the model's choice (log 16, DESIGN CHOICE): a `Load` at another moment is accepted
where all that came since `Reset` left exactly `State.reset`, as steps on the word 0x0000 of the reset memory do, a `Load`
of 0x00 bytes or of none, and a timer write of 0. -/
def load (image : List Byte) (s : State) : Host.Outcome State Fault Refusal :=
  if s ≠ State.reset then .refused .loadNotAfterReset
  else if image.length > Config.maxImage then .refused .imageTooLong
  else .next (s.storeBytes Config.loadAddr image)

/-- `HostTimerWrite` on DT (R134): any value not above the current one, between any two steps, the machine running or
halted (log 24). -/
def lowerDt (b : Timer) (s : State) : Host.Outcome State Fault Refusal :=
  if b.toNat > s.dt.toNat then .refused .timerRaised
  else .next (s.setDt b)

/-- `HostTimerWrite` on ST (R134). -/
def lowerSt (b : Timer) (s : State) : Host.Outcome State Fault Refusal :=
  if b.toNat > s.st.toNat then .refused .timerRaised
  else .next (s.setSt b)

/-- `ReadFB` as bytes: FB[0..255] in index order (R30). -/
def readFb (s : State) : List Byte := s.fb.toList

/-- The pixels of one byte, most significant bit first (R29, R30). -/
def bytePixels (b : Byte) : List Bool := (List.range 8).map (fun j => b.getLsbD (7 - j))

/-- `ReadFB` as pixels: 2048 bits, row-major, each byte most significant bit first (R30). -/
def readPixels (s : State) : List Bool := (readFb s).flatMap bytePixels

/-- The output `halted` (R6, R122). -/
def halted (s : State) : Bool := s.halt

/-- The output `cause` (R6, R123). -/
def causeCode (s : State) : BitVec 3 := s.cause

end Sys2Proof.Machine
end

