-- ==== Sys2Proof/Safety.lean ====
section
/-! DEFINITION. The terms claims are stated in: which pieces of state a transition leaves alone, the invariants of
10_state.md R36, the fatal conditions of 60_exceptions.md R120 in closed form, the states a host can reach, and what counts
as a safe run. -/

namespace Sys2Proof.Machine

/-! ### Frames -/

/-- The pieces of state of 10_state.md. -/
inductive Piece where
  | v | i | pc | sp | stack | dt | st | fb | mem | opcode | halt | cause
  deriving DecidableEq, Repr

/-- The piece has the same contents in both states, as the machine's own reads see it: memory byte by byte, the
framebuffer byte by byte, registers and stack entries one by one. -/
def Piece.Same (s t : State) : Piece → Prop
  | .v => ∀ r, t.getV r = s.getV r
  | .i => t.i = s.i
  | .pc => t.pc = s.pc
  | .sp => t.sp = s.sp
  | .stack => ∀ k, t.stackAt k = s.stackAt k
  | .dt => t.dt = s.dt
  | .st => t.st = s.st
  | .fb => ∀ k, fbByte t.fb k = fbByte s.fb k
  | .mem => ∀ a, t.readByte a = s.readByte a
  | .opcode => t.opcode = s.opcode
  | .halt => t.halt = s.halt
  | .cause => t.cause = s.cause

/-- Every piece but the listed ones is the same in `t` as in `s`. -/
def UnchangedBut (ps : List Piece) (s t : State) : Prop := ∀ p : Piece, p ∉ ps → p.Same s t

/-! ### Fetching -/

/-- The machine can fetch: not halted, and both bytes of the word lie in memory (R43). -/
def CanFetch (s : State) : Prop := s.halt = false ∧ s.pc.toNat ≤ 4094

/-- The word at PC, big-endian, is the number w (R42). -/
def FetchesWord (s : State) (w : Nat) : Prop :=
  256 * (s.readByte s.pc.toNat).toNat + (s.readByte (s.pc.toNat + 1)).toNat = w

/-- Memory holds a `1nnn` at PC whose target is PC itself, and the machine is not halted: the resting state of
70_reset_and_hazards.md R146. -/
def Resting (s : State) : Prop := CanFetch s ∧ FetchesWord s (0x1000 + s.pc.toNat)

/-! ### Fatal conditions in closed form (R120, R114, R128) -/

/-- The cause of a fatal `Dxyn`. Of its n rows the first `4096 − I` have their byte in memory, and the first `32 − py`
(none of them when px > 63) lie on the screen; the first row outside either is fatal, and memory is checked first. -/
def drawFatalCause (base px py n : Nat) : Option Cause :=
  let inMemory := 4096 - base
  let onScreen := if px > 63 then 0 else 32 - py
  if n ≤ inMemory ∧ n ≤ onScreen then none
  else if inMemory ≤ onScreen then some .outOfBoundsMemory
  else some .outOfBoundsFramebuffer

/-- The fatal condition an instruction meets in a state, from the table of R120. -/
def fatalCause (i : Instr) (s : State) : Option Cause :=
  match i with
  | .ldF x => if (s.getV x).toNat > 15 then some .invalidDigit else none
  | .call _ => if s.spInt = 15 then some .stackOverflow else none
  | .ret => if s.spInt = -1 then some .stackUnderflow else none
  | .ldB _ => if s.i.toNat + 2 > 4095 then some .outOfBoundsMemory else none
  | .ldMemVx x => if s.i.toNat + x.val > 4095 then some .outOfBoundsMemory else none
  | .ldVxMem x => if s.i.toNat + x.val > 4095 then some .outOfBoundsMemory else none
  | .drw x y n => drawFatalCause s.i.toNat (s.getV x).toNat (s.getV y).toNat n.val
  | .cls | .jp _ | .seImm _ _ | .sneImm _ _ | .seReg _ _ _ | .ldImm _ _ | .addImm _ _ | .ldReg _ _ | .orReg _ _
  | .andReg _ _ | .xorReg _ _ | .addReg _ _ | .sub _ _ | .shr _ _ | .subn _ _ | .shl _ _ | .sneReg _ _ _ | .ldI _
  | .ldVxDt _ | .ldVxK _ | .ldDtVx _ | .ldStVx _ | .addI _ => none

/-! ### Who writes what (R18, R20, R25, R26, R28, R29, R41, R97) -/

/-- The general registers an instruction writes, from the table of R18. -/
def writtenRegs : Instr → List RegIdx
  | .ldImm x _ | .addImm x _ | .ldReg x _ | .orReg x _ | .andReg x _ | .xorReg x _ | .ldVxDt x => [x]
  | .addReg x _ | .sub x _ | .shr x _ | .subn x _ | .shl x _ => [15, x]
  | .drw _ _ _ => [15]
  | .ldVxMem x => (List.finRange Config.nregs).filter (fun r => r.val ≤ x.val)
  | .cls | .ret | .jp _ | .call _ | .seImm _ _ | .sneImm _ _ | .seReg _ _ _ | .sneReg _ _ _ | .ldI _ | .ldVxK _
  | .ldDtVx _ | .ldStVx _ | .addI _ | .ldF _ | .ldB _ | .ldMemVx _ => []

/-- The pieces of state besides V and PC that an instruction may write when it completes. -/
def writtenPieces : Instr → List Piece
  | .cls | .drw _ _ _ => [.fb]
  | .ret => [.sp]
  | .call _ => [.sp, .stack]
  | .ldI _ | .addI _ | .ldF _ | .ldVxMem _ => [.i]
  | .ldB _ | .ldMemVx _ => [.mem]
  | .ldDtVx _ => [.dt]
  | .ldStVx _ => [.st]
  | .jp _ | .seImm _ _ | .sneImm _ _ | .seReg _ _ _ | .ldImm _ _ | .addImm _ _ | .ldReg _ _ | .orReg _ _
  | .andReg _ _ | .xorReg _ _ | .addReg _ _ | .sub _ _ | .shr _ _ | .subn _ _ | .shl _ _ | .sneReg _ _ _
  | .ldVxDt _ | .ldVxK _ => []

/-! ### Invariant and reachable states -/

/-- What every step keeps: memory in canonical form inside the 4096 bytes, PC and the return addresses in the ranges of
R36, and the cause code in agreement with the latch (R32, R123). -/
structure Inv (s : State) : Prop where
  memCanonical : s.mem.wf = true
  pcBound : s.pc.toNat ≤ 4098
  stackBound : ∀ k, (s.stackAt k).toNat ≤ 4094
  running : s.halt = false → s.cause = 0
  stopped : s.halt = true → 1 ≤ s.cause.toNat ∧ s.cause.toNat ≤ 5

/-- The states a host that keeps to its duties can see (R142, R143, R149): a launch, then steps and timer writes in any
order. `Reset` and a new launch start again. -/
inductive Reachable : State → Prop where
  | launch (image : List Byte) (s : State) : load image State.reset = .next s → Reachable s
  | step (s t : State) : Reachable s → Machine.step s = .next t → Reachable t
  | timerDt (s t : State) (b : Timer) : Reachable s → lowerDt b s = .next t → Reachable t
  | timerSt (s t : State) (b : Timer) : Reachable s → lowerSt b s = .next t → Reachable t

/-- A safe state: not halted by a fatal condition (R122). -/
def Safe (s : State) : Prop := s.halt = false

/-- A run of k steps that makes progress at each: no fatal condition and no unrecognised word (R122, R127). A claim about
a program takes this as something to prove. -/
def SafeRun (s : State) (k : Nat) : Prop :=
  ∀ j t, j ≤ k → Host.Core.run core j s = .next t → Safe t ∧ (j < k → t.invalidOpcode = false)

end Sys2Proof.Machine
end

