-- ==== Sys2Proof/Certificates/Slice0/Obligations.lean ====
section
/-! DEFINITION. The statements about the machine, each from the rules of spec/ named in its docstring. A meaning's
statement says its encoding, that `exec` answers a next state, what that state holds, and its frame (`UnchangedBut`). Where a
statement writes `s.pc + 2#16` or `s.pc + 4#16` it is the 16-bit sum, which wraps in no step of a reachable state (R23,
log 13). -/

open Sys2Proof Sys2Proof.Machine

/-! ### Encoding and decoding -/

/-- R57, R59, R60, R63: the bytes of every instruction, whatever follows them, decode to that instruction, every field
at every value. The low nibble of 5xyN and 9xyN and the whole-word match of group 0 are the spec's decisions D8 and D7
(log 7, log 8). -/
def Obligations.DecodeOfEncodeIsTheInstruction : Prop :=
  ∀ (i : Instr) (rest : List Byte), decode (encodeBytes i ++ rest) = .ok (i, rest)

/-- R60, R62, R66: decoding loses no bit of a word, the unused fields included (D8, log 7). Group 0 is matched as a
whole word by D7 (log 8). -/
def Obligations.EncodeOfDecodeIsTheWord : Prop :=
  ∀ (w : Word) (i : Instr), decodeWord w = .ok i → encode i = w

/-- R63: a word is an instruction exactly when it matches one row of the table; the rows do not overlap; the row is
the one of the instruction decoded. Groups 0, 5 and 9 as the spec's decisions D7 and D8 read them, and the holes of groups
0, 8 and F by D6 (log 7, log 8). -/
def Obligations.WordIsAnInstructionIffOneRowMatches : Prop :=
  opcodeTable.length = 30 ∧
  ∀ w : Word,
    (∀ i, decodeWord w = .ok i → opcodeTable.filter (fun r => r.matches w) = [i.row]) ∧
    (∀ e, decodeWord w = .error e → opcodeTable.filter (fun r => r.matches w) = [])

/-- Nine words, written out bit by bit, decode to the instruction they stand for. Eight are written from the patterns of
R63. The clause for 0x512F rests on a decision: R63's pattern 5xy0 is the words with low nibble 0 alone (R12), and that
any low nibble is taken is R66, the spec's decision D8 (log 7). -/
def Obligations.SampleWordsDecode : Prop :=
  decodeWord 0b0000000011101110#16 = .ok .ret ∧
  decodeWord 0b0001101010111100#16 = .ok (.jp 0xABC) ∧
  decodeWord 0b0101000100101111#16 = .ok (.seReg 1 2 0xF) ∧
  decodeWord 0b0111001100001010#16 = .ok (.addImm 3 0x0A) ∧
  decodeWord 0b1000010010100110#16 = .ok (.shr 4 10) ∧
  decodeWord 0b1010001011110000#16 = .ok (.ldI 0x2F0) ∧
  decodeWord 0b1101000100100101#16 = .ok (.drw 1 2 5) ∧
  decodeWord 0b1111010001010101#16 = .ok (.ldMemVx 4) ∧
  decodeWord 0b1111001100001010#16 = .ok (.ldVxK 3)

/-- R67: the words 0xB000 to 0xCFFF and 0xE000 to 0xEFFF are unrecognised, and a step on one has the outcome
invalid-opcode: OPCODE holds the word (R126, D1, D19: log 14), nothing else changes, PC included. That the report is a
signal of the step is D19 (log 2). -/
def Obligations.TopNibblesBCEAreInvalid : Prop :=
  ∀ (w : Word), (0xB000 ≤ w.toNat ∧ w.toNat ≤ 0xCFFF) ∨ (0xE000 ≤ w.toNat ∧ w.toNat ≤ 0xEFFF) →
    (∀ i, decodeWord w ≠ .ok i) ∧
    ∀ s : State, CanFetch s → FetchesWord s w.toNat →
      s.invalidOpcode = true ∧ ∃ t, step s = .next t ∧ t.opcode = w ∧ UnchangedBut [.opcode] s t

/-- R68: in groups 0, 8 and F every word but the defined ones is unrecognised, and the defined ones are recognised.
The spec's decisions D6 and D7 (log 8). -/
def Obligations.GroupHolesAreUnrecognised : Prop :=
  ∀ w : Word,
    (w.toNat < 0x1000 → ((∃ i, decodeWord w = .ok i) ↔ w.toNat = 0x00E0 ∨ w.toNat = 0x00EE)) ∧
    (w.toNat / 0x1000 = 0x8 →
      ((∃ i, decodeWord w = .ok i) ↔ w.toNat % 0x10 ≤ 0x7 ∨ w.toNat % 0x10 = 0xE)) ∧
    (w.toNat / 0x1000 = 0xF →
      ((∃ i, decodeWord w = .ok i) ↔ w.toNat % 0x100 ∈ [0x07, 0x0A, 0x15, 0x18, 0x1E, 0x29, 0x33, 0x55, 0x65]))

/-! ### Fetch and step -/

/-- R43: fetch forms the word big-endian from the bytes at PC and PC + 1, stores it in OPCODE and changes nothing
else; it succeeds exactly when PC ≤ 4094, and otherwise the step is fatal OutOfBoundsMemory with OPCODE unchanged
(D32). The latch and its code are the spec's decision D4 (log 1); that a fatal fetch changes nothing but HALT and
CAUSE is a claim about the halted state and rests on D5 and D32 (U6, log 12). An odd PC fetches like any other by D16
(log 23), and PC + 1 does not wrap by D14 (log 12). -/
def Obligations.FetchReadsTwoBytesBigEndian : Prop :=
  ∀ s : State, s.halt = false →
    (s.pc.toNat ≤ 4094 →
      ∃ t, (fetchDecode s = .invalid t ∨ ∃ i, fetchDecode s = .run i t) ∧
        t.opcode.toNat = 256 * (s.readByte s.pc.toNat).toNat + (s.readByte (s.pc.toNat + 1)).toNat ∧
        UnchangedBut [.opcode] s t) ∧
    (4095 ≤ s.pc.toNat →
      ∃ t, fetchDecode s = .fatal t ∧ step s = .next t ∧ t.halt = true ∧ t.cause.toNat = 4 ∧
        UnchangedBut [.halt, .cause] s t)

/-- R7: when the word at PC decodes to an instruction, the step is that instruction executed with OPCODE holding the
word (D1, log 14); canonical (well-formed) or not (log 21). That 5xyN and 9xyN with N other than 0 run is D8 (log 7),
that only the whole words 00E0 and 00EE run in group 0 is D7 (log 8), and that an odd PC is no obstacle is D16 (log
23). -/
def Obligations.StepRunsTheDecodedInstruction : Prop :=
  ∀ (s : State) (w : Word) (i : Instr), CanFetch s → FetchesWord s w.toNat → decodeWord w = .ok i →
    step s = exec i (s.setOpcode w) ∧ s.invalidOpcode = false

/-- R7: every step answers a next state: completed, invalid-opcode or fatal, never a fault or a refusal (a fatal
condition is a next state with HALT = 1: D4, log 1). That a word of a hole of groups 0, 8 and F is an invalid-opcode
outcome is D6 and D7 (log 8), that the report does not stop the machine is D19 (log 2), and that a halted machine's
step answers the same state is D26 (log 1). -/
def Obligations.EveryStepAnswersANextState : Prop :=
  (∀ s : State, ∃ t, step s = .next t) ∧ ∀ (i : Instr) (s : State), ∃ t, exec i s = .next t

/-- R126: on an unrecognised word OPCODE holds the word and nothing else changes, HALT stays 0; `invalid_opcode` is
asserted for exactly such steps (D19, log 2). OPCODE as state is the spec's decision D1 (log 14). For a word that
fails only the secondary dispatch of group 8 or F, and for a word of group 0, the statement rests on D6 and D7 (log
8); that 5xyN and 9xyN with N other than 0 are not among them is D8 (log 7). -/
def Obligations.UnrecognisedWordIsReportedAndChangesNothing : Prop :=
  ∀ s : State,
    (s.invalidOpcode = true ↔ CanFetch s ∧ ∀ w : Word, FetchesWord s w.toNat → ∀ i, decodeWord w ≠ .ok i) ∧
    (s.invalidOpcode = true →
      ∃ t, step s = .next t ∧ FetchesWord s t.opcode.toNat ∧ t.halt = false ∧ UnchangedBut [.opcode] s t)

/-- R127: a machine at an unrecognised word reports it again at every later step and makes no progress (the spec's own
consequence of R126: D19, log 2; OPCODE as state is D1, log 14). For a word that fails only the secondary dispatch of
group 8 or F, and for a word of group 0, it rests on D6 and D7 (log 8). It is a run of steps alone: DT and ST stay
only if the host does not lower them in between, which R134 (D23) lets it do (log 15). -/
def Obligations.UnrecognisedWordRepeatsForEver : Prop :=
  ∀ (s : State), s.invalidOpcode = true →
    ∀ k : Nat, ∃ t, Host.Core.run core k s = .next t ∧ t.invalidOpcode = true ∧ UnchangedBut [.opcode] s t

/-- R129, R32, R36 (e): with HALT = 1 a step has no effect at all and reports nothing, after any number of them (the
spec's decision D26). A timer write, which R134 (D23) allows between any two steps, changes the one timer alone, so
the machine stays halted with its cause and a step still has no effect (that R134 holds in a halted state is log 24).
The first clause is a run of steps alone (log 15). -/
def Obligations.HaltedMachineStaysHalted : Prop :=
  ∀ s : State, s.halt = true →
    (∀ k : Nat, Host.Core.run core k s = .next s) ∧ s.invalidOpcode = false ∧
    (∀ (b : Timer) (t : State), lowerDt b s = .next t → UnchangedBut [.dt] s t ∧ step t = .next t) ∧
    (∀ (b : Timer) (t : State), lowerSt b s = .next t → UnchangedBut [.st] s t ∧ step t = .next t)

/-- R124: a fatal step changes HALT and CAUSE only; OPCODE is as before when the fetch was fatal and holds the fetched
word otherwise. A claim about the halted state: it rests on the spec's decisions D5 and D32 (U6, log 12), and the latch is
D4 (log 1). -/
def Obligations.FatalStepChangesOnlyHaltAndCause : Prop :=
  ∀ s t : State, s.halt = false → step s = .next t → t.halt = true →
    UnchangedBut [.halt, .cause, .opcode] s t ∧
    (4095 ≤ s.pc.toNat → t.opcode = s.opcode) ∧
    (s.pc.toNat ≤ 4094 → FetchesWord s t.opcode.toNat)

/-- R120, R123, R128: an instruction is fatal exactly in the cases of the table, with the code of its cause, and
completes with HALT and CAUSE as they were in every other state; fetch is fatal exactly when PC > 4094. The numbers
and the latch are the spec's decision D4 (log 1), that stack overflow and underflow are fatal is D18 (log 1), the
order of the checks of Dxyn is D28 (log 12), and that Dxyn with n of 1 or more and Vx above 63 is fatal is D11 (R114
(c), log 10). That a fatal case changes HALT and CAUSE alone is a claim about the halted state and rests on D5 (U6,
log 12). That the other cases complete rests, for Fx1E with a sum above 0xFFFF, on D15 (log 11), for 5xyN and 9xyN on
D8 (log 7), and for Dxyn with n = 0 on C7 (R117, log 10). Addresses are exact and do not wrap by D14 (log 12), and an
odd PC is not fatal by D16 (log 23). -/
def Obligations.FatalExactlyInTheListedCases : Prop :=
  (∀ (i : Instr) (s : State), s.halt = false →
    ∃ t, exec i s = .next t ∧
      (fatalCause i s = none → t.halt = false ∧ t.cause = s.cause) ∧
      (∀ c, fatalCause i s = some c → t.halt = true ∧ UnchangedBut [.halt, .cause] s t) ∧
      (fatalCause i s = some .invalidDigit → t.cause.toNat = 1) ∧
      (fatalCause i s = some .stackOverflow → t.cause.toNat = 2) ∧
      (fatalCause i s = some .stackUnderflow → t.cause.toNat = 3) ∧
      (fatalCause i s = some .outOfBoundsMemory → t.cause.toNat = 4) ∧
      (fatalCause i s = some .outOfBoundsFramebuffer → t.cause.toNat = 5)) ∧
  (∀ s : State, s.halt = false → ((∃ t, fetchDecode s = .fatal t ∧ step s = .next t ∧ t.halt = true ∧ t.cause.toNat = 4) ↔
    4094 < s.pc.toNat))

/-! ### Invariants -/

/-- The invariant holds at reset (R35, R36, both derived by the spec; the canonical form of memory is log 4). -/
def Obligations.InvariantHoldsAtReset : Prop := Inv State.reset

/-- R23, R27, R32, R36, R123: every step keeps the invariant, from every state that has it (bounds the spec derives;
canonical memory is log 4). Where the step is fatal it is a claim about the halted state: it rests on D4 (log 1) and
D5 (U6, log 12), and the stack bound on D18 (log 1). The step is the one the spec's decisions shape: D6 and D7 for the
holes of groups 0, 8 and F (log 8), D8 for 5xyN and 9xyN (log 7), D14 for PC and addresses that do not wrap (log 12),
D16 for an odd PC (log 23), D26 for the halted machine (log 1). -/
def Obligations.EveryStepKeepsTheInvariant : Prop :=
  ∀ s t : State, Inv s → step s = .next t → Inv t

/-- R36: in every state a host can reach PC is at most 4098, SP in −1 to 15, every return address at most 4094, the
registers in the range of their widths, memory canonical (log 4), and no step changes a halted state (log 15, log 24:
how the host's actions are modelled, and how the timer writes of R134, D23, stand beside R36 (e)). SP as an integer is
D3 (log 3), the halted machine's steps D26; what it says of a halted state rests on D4 (log 1) and D5 (U6, log 12),
and the bounds of SP and of the stack on D18 (log 1). The launch is that of D20 and D24 (log 16); the steps are those
of D6 and D7 (log 8), D8 (log 7), D14 (log 12), D15 (log 11) and D16 (log 23). -/
def Obligations.ReachableStatesAreInRange : Prop :=
  ∀ s : State, Reachable s →
    s.pc.toNat ≤ 4098 ∧ -1 ≤ s.spInt ∧ s.spInt ≤ 15 ∧ (∀ k, (s.stackAt k).toNat ≤ 4094) ∧
    (∀ r, (s.getV r).toNat ≤ 255) ∧ s.dt.toNat ≤ 255 ∧ s.st.toNat ≤ 255 ∧ s.i.toNat ≤ 65535 ∧ s.mem.wf = true ∧
    (s.halt = true → step s = .next s)

/-- R33, and the model's canonical form (log 4): memories that read alike are the same list. -/
def Obligations.MemoryThatReadsAlikeIsEqual : Prop :=
  ∀ m m' : Memory, m.wf = true → m'.wf = true → (∀ a, m.read a = m'.read a) → m = m'

/-! ### Reset and host operations -/

/-- R35, R139: what `Reset` leaves, from any state (D26); SP = −1 is D3 (log 3). The bytes of the font's digit 0 are
the document's; those of the other digits are PRESUMED (D21, log 5) and only their place is stated. OPCODE as state is
D1 (log 14), HALT and CAUSE are D4 (log 1). -/
def Obligations.ResetLeavesTheStatedValues : Prop :=
  (∀ s : State, reset s = State.reset) ∧
  (∀ r, State.reset.getV r = 0) ∧ State.reset.i = 0 ∧ State.reset.pc = 0x0200#16 ∧ State.reset.spInt = -1 ∧
  (∀ k, State.reset.stackAt k = 0) ∧ State.reset.dt = 0 ∧ State.reset.st = 0 ∧ (∀ k, fbByte State.reset.fb k = 0) ∧
  State.reset.opcode = 0 ∧ State.reset.halt = false ∧ State.reset.cause = 0 ∧
  Config.font.length = 80 ∧ (∀ a, a < 80 → Config.font[a]? = some (State.reset.readByte a)) ∧
  (∀ a, 80 ≤ a → State.reset.readByte a = 0) ∧
  (List.range 5).map State.reset.readByte = [0xF0, 0x90, 0x90, 0x90, 0xF0]

/-- R141: `Load` copies an image of at most 3584 bytes to 0x200 on and changes nothing else; a longer one is refused,
and so is a `Load` in any state but the one `Reset` leaves (D20, D24). That the state alone tells the moment is the
model's choice (log 16). -/
def Obligations.LoadCopiesTheImage : Prop :=
  (∀ image : List Byte, image.length ≤ 3584 →
    ∃ t, load image State.reset = .next t ∧
      (∀ k (h : k < image.length), t.readByte (0x200 + k) = image[k]) ∧
      (∀ a, a < 0x200 ∨ 0x200 + image.length ≤ a → t.readByte a = State.reset.readByte a) ∧
      UnchangedBut [.mem] State.reset t) ∧
  (∀ image : List Byte, 3584 < image.length → load image State.reset = .refused .imageTooLong) ∧
  (∀ (image : List Byte) (s : State), s ≠ State.reset → load image s = .refused .loadNotAfterReset)

/-- R134: between steps the host may replace DT, and ST likewise, by any value not above it, and changes nothing else;
it never raises a timer (D23: log 15). It holds in a halted state too (log 24). -/
def Obligations.HostTimerWriteOnlyLowers : Prop :=
  ∀ (s : State) (b : Timer),
    (b.toNat ≤ s.dt.toNat → ∃ t, lowerDt b s = .next t ∧ t.dt = b ∧ UnchangedBut [.dt] s t) ∧
    (s.dt.toNat < b.toNat → ∀ t, lowerDt b s ≠ .next t) ∧
    (b.toNat ≤ s.st.toNat → ∃ t, lowerSt b s = .next t ∧ t.st = b ∧ UnchangedBut [.st] s t) ∧
    (s.st.toNat < b.toNat → ∀ t, lowerSt b s ≠ .next t)

/-- R29, R30: `ReadFB` gives the 256 bytes in index order, equivalently the 2048 pixels row by row, the pixel at
column c and row r being bit 7 − (c mod 8) of FB[8 r + (c div 8)] (the order the spec derives in R29). That the export
is the bytes as they are, between steps, is D30 (log 15). -/
def Obligations.ReadFbIsRowMajor : Prop :=
  ∀ s : State, (readFb s).length = 256 ∧ (readPixels s).length = 2048 ∧
    (∀ k, k < 256 → (readFb s)[k]? = some (fbByte s.fb k)) ∧
    (∀ c r, c < 64 → r < 32 →
      (readPixels s)[64 * r + c]? = some ((fbByte s.fb (8 * r + c / 8)).getLsbD (7 - c % 8)))

/-- R42, R43: the word the model places for the next fetch is the word the next step runs, and only the two bytes at
PC change to place it (`withFetchWord` is the model's, log 18). OPCODE as state is D1 (log 14); 5xyN and 9xyN with N
other than 0 run by D8 (log 7), only the whole words 00E0 and 00EE in group 0 by D7 (log 8), and at an odd PC by D16
(log 23). -/
def Obligations.PlacedWordRunsNext : Prop :=
  ∀ (s : State) (w : Nat) (i : Instr), CanFetch s → w < 65536 → decodeTableWord 16 w = some i →
    step (s.withFetchWord 16 w) = exec i ((s.withFetchWord 16 w).setOpcode (BitVec.ofNat 16 w)) ∧
    UnchangedBut [.mem] s (s.withFetchWord 16 w) ∧
    ∀ a, a ≠ s.pc.toNat → a ≠ s.pc.toNat + 1 → (s.withFetchWord 16 w).readByte a = s.readByte a

/-! ### Whole-machine rules -/

/-- R18, R24, R25, R26, R28, R29, R41, R97: an instruction writes no register but those of R18, and no piece of state
but its own: I only by Annn, Fx1E, Fx29, Fx65; SP by 2nnn, 00EE; STACK by 2nnn; DT by Fx15; ST by Fx18; FB by 00E0,
Dxyn; memory by Fx33, Fx55; OPCODE by none; and every instruction answers a next state (a fatal one by D4, log 1).
That the registers keep their values in a fatal case is a claim about the halted state and rests on D5 (U6, log 12);
which cases are fatal rests on D11 and D18 (log 10, log 1). That Fx1E completes with a sum above 0xFFFF and leaves VF is D15 (log
11), that a return leaves STACK is D17 (log 3), that 5xyN and 9xyN only skip is D8 (log 7), that Fx65 writes I and
Fx55 does not is U1 (log 19). -/
def Obligations.EachInstructionWritesOnlyItsOwnState : Prop :=
  ∀ (i : Instr) (s : State),
    ∃ t, exec i s = .next t ∧ (∀ r, r ∉ writtenRegs i → t.getV r = s.getV r) ∧
      (fatalCause i s = none → UnchangedBut ([.v, .pc] ++ writtenPieces i) s t)

/-- R22: the new PC of every instruction: nnn, the popped entry plus 2, PC + 4 or PC + 2 for a skip, PC + 2 for all
the others, and PC unchanged by an unrecognised word and by a fatal condition, that of fetch included. Decisions it
rests on: 5xyN and 9xyN with N other than 0 compare as 5xy0 and 9xy0 do (R66, D8, log 7); a draw above column 63 is
one of the fatal cases (D11, log 10), and so are a full and an empty stack (D18, log 1); a fatal case is a next state,
halted, with PC kept (D4, log 1; D5, U6, log 12). The premises that PC and the stack entries are at most 4094 keep the
16-bit sums from wrapping (log 13). An unrecognised word keeps PC, for the holes of groups 0, 8 and F by D6 and D7
(log 8), and its report is D19 (log 2). Fx1E completes, PC + 2, where I + Vx exceeds 0xFFFF too, by D15 (log 11), and Dxyn
with n = 0 by C7 (R117, log 10). An odd PC is allowed by D16 (log 23), and PC and addresses do not wrap by D14 (log 12). -/
def Obligations.PcAfterEachInstruction : Prop :=
  (∀ (i : Instr) (s : State), CanFetch s → (∀ k, (s.stackAt k).toNat ≤ 4094) →
    ∃ t, exec i s = .next t ∧
      if (fatalCause i s).isSome then t.pc = s.pc
      else match i with
        | .jp nnn => t.pc.toNat = nnn.toNat
        | .call nnn => t.pc.toNat = nnn.toNat
        | .ret => ∀ k : Fin 16, (k.val : Int) = s.spInt → t.pc.toNat = (s.stackAt k).toNat + 2
        | .seImm x kk => t.pc.toNat = s.pc.toNat + if s.getV x = kk then 4 else 2
        | .sneImm x kk => t.pc.toNat = s.pc.toNat + if s.getV x ≠ kk then 4 else 2
        | .seReg x y _ => t.pc.toNat = s.pc.toNat + if s.getV x = s.getV y then 4 else 2
        | .sneReg x y _ => t.pc.toNat = s.pc.toNat + if s.getV x ≠ s.getV y then 4 else 2
        | _ => t.pc.toNat = s.pc.toNat + 2) ∧
  (∀ s : State, s.invalidOpcode = true → ∃ t, step s = .next t ∧ t.pc = s.pc) ∧
  (∀ s : State, s.halt = false → 4095 ≤ s.pc.toNat → ∃ t, step s = .next t ∧ t.pc = s.pc)

/-- R55: a store is seen by the next fetch. With I at the next instruction, Fx55 makes V0 and V1 the word fetched next
(V0 and the old second byte when x is 0), and Fx33 makes the hundreds and tens of Vx that word, for every x whose
stores stay in memory. An odd PC is allowed by D16 (log 23). -/
def Obligations.StoredWordIsFetchedNext : Prop :=
  ∀ (s : State) (x : RegIdx), CanFetch s → s.i.toNat = s.pc.toNat + 2 → s.pc.toNat + 3 ≤ 4095 →
    (FetchesWord s (0xF055 + 0x100 * x.val) → s.pc.toNat + 2 + x.val ≤ 4095 →
      ∃ t, step s = .next t ∧ CanFetch t ∧ t.pc.toNat = s.pc.toNat + 2 ∧
        FetchesWord t (256 * (s.getV 0).toNat +
          if x = 0 then (s.readByte (s.pc.toNat + 3)).toNat else (s.getV 1).toNat)) ∧
    (FetchesWord s (0xF033 + 0x100 * x.val) → s.pc.toNat + 4 ≤ 4095 →
      ∃ t, step s = .next t ∧ CanFetch t ∧ t.pc.toNat = s.pc.toNat + 2 ∧
        FetchesWord t (256 * ((s.getV x).toNat / 100) + (s.getV x).toNat / 10 % 10))

/-- R146: a step from a resting state leaves every piece of state unchanged, but that OPCODE takes the word just
fetched (R31, D1, log 14). The resting state is the spec's decision D27. It may lie at an odd address by D16 (log 23). -/
def Obligations.RestingStateStays : Prop :=
  ∀ s : State, Resting s →
    ∃ t, step s = .next t ∧ Resting t ∧ t.opcode.toNat = 0x1000 + s.pc.toNat ∧ UnchangedBut [.opcode] s t

/-! ### Control flow (40_flow.md) -/

/-- R74: 1nnn sets PC to the zero-extended nnn and changes nothing else. -/
def Obligations.JumpSetsPc : Prop :=
  ∀ (nnn : BitVec 12) (s : State),
    decodeWord (BitVec.ofNat 16 (0x1000 + nnn.toNat)) = .ok (.jp nnn) ∧
    ∃ t, exec (.jp nnn) s = .next t ∧ t.pc.toNat = nnn.toNat ∧ UnchangedBut [.pc] s t

/-- R75: StackOverflow when SP = 15; otherwise SP + 1, the call's own address pushed there, PC = nnn. That the full
stack is fatal is the spec's decision D18, the latch and the code are D4 (log 1). That the fatal case leaves all but
HALT and CAUSE unchanged is a claim about the halted state and rests on D5 (U6, log 12). SP as an integer is D3 (log
3). An odd target is allowed by D16 (log 23). -/
def Obligations.CallPushesItsOwnAddress : Prop :=
  ∀ (nnn : BitVec 12) (s : State),
    decodeWord (BitVec.ofNat 16 (0x2000 + nnn.toNat)) = .ok (.call nnn) ∧
    (s.spInt = 15 → ∃ t, exec (.call nnn) s = .next t ∧ t.halt = true ∧ t.cause.toNat = 2 ∧
      UnchangedBut [.halt, .cause] s t) ∧
    (s.spInt ≠ 15 → ∃ t, exec (.call nnn) s = .next t ∧ t.spInt = s.spInt + 1 ∧ t.pc.toNat = nnn.toNat ∧
      (∀ k : Fin 16, t.stackAt k = if (k.val : Int) = s.spInt + 1 then s.pc else s.stackAt k) ∧
      UnchangedBut [.pc, .sp, .stack] s t)

/-- R73: StackUnderflow when SP = −1; otherwise PC = STACK[SP] + 2 and SP − 1, the entry kept (R27, D17: log 3). That
the empty stack is fatal is the spec's decision D18, the latch and the code are D4 (log 1). That the fatal case leaves
all but HALT and CAUSE unchanged is a claim about the halted state and rests on D5 (U6, log 12). SP as an integer is
D3 (log 3). The sum is the 16-bit one of log 13. -/
def Obligations.ReturnGoesPastTheCall : Prop :=
  ∀ s : State,
    decodeWord 0x00EE#16 = .ok .ret ∧
    (s.spInt = -1 → ∃ t, exec .ret s = .next t ∧ t.halt = true ∧ t.cause.toNat = 3 ∧
      UnchangedBut [.halt, .cause] s t) ∧
    (s.spInt ≠ -1 → ∃ t, exec .ret s = .next t ∧ t.spInt = s.spInt - 1 ∧
      (∀ k : Fin 16, (k.val : Int) = s.spInt → t.pc = s.stackAt k + 2#16) ∧ UnchangedBut [.pc, .sp] s t)

/-- R27, R73, R75: a call and the return that matches it resume at the call's address plus 2 with SP as before, from
every stack that is not full (D17: the entries stay, D3: SP as an integer; log 3). The sum PC + 2 is the 16-bit one of
log 13. -/
def Obligations.ReturnMatchesCall : Prop :=
  ∀ (nnn : BitVec 12) (s : State), s.spInt ≠ 15 →
    ∃ t u, exec (.call nnn) s = .next t ∧ exec .ret t = .next u ∧ u.pc = s.pc + 2#16 ∧ u.sp = s.sp ∧
      (∀ k : Fin 16, (k.val : Int) ≤ s.spInt → u.stackAt k = s.stackAt k) ∧ UnchangedBut [.pc, .stack] s u

/-- R76: 3xkk gives PC + 4 if Vx = kk, else PC + 2; nothing else changes. -/
def Obligations.SkipIfEqualImmediate : Prop :=
  ∀ (x : RegIdx) (kk : Byte) (s : State),
    decodeWord (BitVec.ofNat 16 (0x3000 + 0x100 * x.val + kk.toNat)) = .ok (.seImm x kk) ∧
    ∃ t, exec (.seImm x kk) s = .next t ∧
      t.pc = (if (s.getV x).toNat = kk.toNat then s.pc + 4#16 else s.pc + 2#16) ∧ UnchangedBut [.pc] s t

/-- R77: 4xkk gives PC + 4 if Vx ≠ kk, else PC + 2; nothing else changes. -/
def Obligations.SkipIfNotEqualImmediate : Prop :=
  ∀ (x : RegIdx) (kk : Byte) (s : State),
    decodeWord (BitVec.ofNat 16 (0x4000 + 0x100 * x.val + kk.toNat)) = .ok (.sneImm x kk) ∧
    ∃ t, exec (.sneImm x kk) s = .next t ∧
      t.pc = (if (s.getV x).toNat = kk.toNat then s.pc + 2#16 else s.pc + 4#16) ∧ UnchangedBut [.pc] s t

/-- R78, R79, with R66: skip if Vx = Vy, skip if Vx ≠ Vy, whatever the low nibble of the word (D8, log 7). -/
def Obligations.SkipOnRegisters : Prop :=
  ∀ (x y : RegIdx) (z : BitVec 4) (s : State),
    decodeWord (BitVec.ofNat 16 (0x5000 + 0x100 * x.val + 0x10 * y.val + z.toNat)) = .ok (.seReg x y z) ∧
    decodeWord (BitVec.ofNat 16 (0x9000 + 0x100 * x.val + 0x10 * y.val + z.toNat)) = .ok (.sneReg x y z) ∧
    (∃ t, exec (.seReg x y z) s = .next t ∧
      t.pc = (if (s.getV x).toNat = (s.getV y).toNat then s.pc + 4#16 else s.pc + 2#16) ∧ UnchangedBut [.pc] s t) ∧
    (∃ t, exec (.sneReg x y z) s = .next t ∧
      t.pc = (if (s.getV x).toNat = (s.getV y).toNat then s.pc + 2#16 else s.pc + 4#16) ∧ UnchangedBut [.pc] s t)

/-! ### Arithmetic and logic (41_alu.md) -/

/-- R84: 6xkk writes kk to Vx and advances PC by 2; no other register changes. -/
def Obligations.LoadImmediateWritesVx : Prop :=
  ∀ (x : RegIdx) (kk : Byte) (s : State),
    decodeWord (BitVec.ofNat 16 (0x6000 + 0x100 * x.val + kk.toNat)) = .ok (.ldImm x kk) ∧
    ∃ t, exec (.ldImm x kk) s = .next t ∧ t.getV x = kk ∧ (∀ r, r ≠ x → t.getV r = s.getV r) ∧
      t.pc = s.pc + 2#16 ∧ UnchangedBut [.v, .pc] s t

/-- R85: 7xkk adds kk to Vx modulo 256, with no flag: no register but Vx changes. -/
def Obligations.AddImmediateWrapsWithoutFlag : Prop :=
  ∀ (x : RegIdx) (kk : Byte) (s : State),
    decodeWord (BitVec.ofNat 16 (0x7000 + 0x100 * x.val + kk.toNat)) = .ok (.addImm x kk) ∧
    ∃ t, exec (.addImm x kk) s = .next t ∧ (t.getV x).toNat = ((s.getV x).toNat + kk.toNat) % 256 ∧
      (∀ r, r ≠ x → t.getV r = s.getV r) ∧ t.pc = s.pc + 2#16 ∧ UnchangedBut [.v, .pc] s t

/-- R86, R87, R88, R89: move, or, and, exclusive or, bit by bit; VF is not written as a side effect. -/
def Obligations.MoveAndLogicAreBitwise : Prop :=
  ∀ (x y : RegIdx) (s : State),
    (decodeWord (BitVec.ofNat 16 (0x8000 + 0x100 * x.val + 0x10 * y.val)) = .ok (.ldReg x y) ∧
      ∃ t, exec (.ldReg x y) s = .next t ∧ t.getV x = s.getV y ∧
        (∀ r, r ≠ x → t.getV r = s.getV r) ∧ t.pc = s.pc + 2#16 ∧ UnchangedBut [.v, .pc] s t) ∧
    (decodeWord (BitVec.ofNat 16 (0x8001 + 0x100 * x.val + 0x10 * y.val)) = .ok (.orReg x y) ∧
      ∃ t, exec (.orReg x y) s = .next t ∧
        (∀ j, j < 8 → (t.getV x).getLsbD j = ((s.getV x).getLsbD j || (s.getV y).getLsbD j)) ∧
        (∀ r, r ≠ x → t.getV r = s.getV r) ∧ t.pc = s.pc + 2#16 ∧ UnchangedBut [.v, .pc] s t) ∧
    (decodeWord (BitVec.ofNat 16 (0x8002 + 0x100 * x.val + 0x10 * y.val)) = .ok (.andReg x y) ∧
      ∃ t, exec (.andReg x y) s = .next t ∧
        (∀ j, j < 8 → (t.getV x).getLsbD j = ((s.getV x).getLsbD j && (s.getV y).getLsbD j)) ∧
        (∀ r, r ≠ x → t.getV r = s.getV r) ∧ t.pc = s.pc + 2#16 ∧ UnchangedBut [.v, .pc] s t) ∧
    (decodeWord (BitVec.ofNat 16 (0x8003 + 0x100 * x.val + 0x10 * y.val)) = .ok (.xorReg x y) ∧
      ∃ t, exec (.xorReg x y) s = .next t ∧
        (∀ j, j < 8 → (t.getV x).getLsbD j = ((s.getV x).getLsbD j != (s.getV y).getLsbD j)) ∧
        (∀ r, r ≠ x → t.getV r = s.getV r) ∧ t.pc = s.pc + 2#16 ∧ UnchangedBut [.v, .pc] s t)

/-- R90: the low 8 bits of the exact sum of the old operands go to Vx, its carry to VF unless x = 15, where the sum is
the last write (the spec's decision D9, log 6). -/
def Obligations.AddRegistersReportsCarry : Prop :=
  ∀ (x y : RegIdx) (s : State),
    decodeWord (BitVec.ofNat 16 (0x8004 + 0x100 * x.val + 0x10 * y.val)) = .ok (.addReg x y) ∧
    ∃ t, exec (.addReg x y) s = .next t ∧
      (t.getV x).toNat = ((s.getV x).toNat + (s.getV y).toNat) % 256 ∧
      (x ≠ 15 → (t.getV 15).toNat = if (s.getV x).toNat + (s.getV y).toNat > 255 then 1 else 0) ∧
      (∀ r, r ≠ x → r ≠ 15 → t.getV r = s.getV r) ∧ t.pc = s.pc + 2#16 ∧ UnchangedBut [.v, .pc] s t

/-- R91, with the clause order of R83 (the spec's decision D9, log 6): f = (Vx > Vy) goes to VF; then Vx takes the
difference modulo 256 of the registers as they now stand, f standing for an operand that is VF. -/
def Obligations.SubReportsStrictlyGreater : Prop :=
  ∀ (x y : RegIdx) (s : State),
    decodeWord (BitVec.ofNat 16 (0x8005 + 0x100 * x.val + 0x10 * y.val)) = .ok (.sub x y) ∧
    ∃ (t : State) (f a b : Nat), exec (.sub x y) s = .next t ∧
      f = (if (s.getV x).toNat > (s.getV y).toNat then 1 else 0) ∧
      a = (if x = 15 then f else (s.getV x).toNat) ∧ b = (if y = 15 then f else (s.getV y).toNat) ∧
      (t.getV x).toNat = (256 + a - b) % 256 ∧ (x ≠ 15 → (t.getV 15).toNat = f) ∧
      (∀ r, r ≠ x → r ≠ 15 → t.getV r = s.getV r) ∧ t.pc = s.pc + 2#16 ∧ UnchangedBut [.v, .pc] s t

/-- R93, with the clause order of R83 (the spec's decision D9, log 6): f = (Vy > Vx) goes to VF; then Vx takes Vy − Vx
modulo 256 of the registers as they now stand. -/
def Obligations.SubnReportsStrictlyGreater : Prop :=
  ∀ (x y : RegIdx) (s : State),
    decodeWord (BitVec.ofNat 16 (0x8007 + 0x100 * x.val + 0x10 * y.val)) = .ok (.subn x y) ∧
    ∃ (t : State) (f a b : Nat), exec (.subn x y) s = .next t ∧
      f = (if (s.getV y).toNat > (s.getV x).toNat then 1 else 0) ∧
      a = (if x = 15 then f else (s.getV x).toNat) ∧ b = (if y = 15 then f else (s.getV y).toNat) ∧
      (t.getV x).toNat = (256 + b - a) % 256 ∧ (x ≠ 15 → (t.getV 15).toNat = f) ∧
      (∀ r, r ≠ x → r ≠ 15 → t.getV r = s.getV r) ∧ t.pc = s.pc + 2#16 ∧ UnchangedBut [.v, .pc] s t

/-- R92, with the clause order of R83 (the spec's decision D9, log 6): VF takes bit 0 of Vx; then Vx, the flag itself
when x = 15, is halved; the y field is not used. -/
def Obligations.ShiftRightReportsBitZero : Prop :=
  ∀ (x y : RegIdx) (s : State),
    decodeWord (BitVec.ofNat 16 (0x8006 + 0x100 * x.val + 0x10 * y.val)) = .ok (.shr x y) ∧
    ∃ t, exec (.shr x y) s = .next t ∧
      (x ≠ 15 → (t.getV x).toNat = (s.getV x).toNat / 2 ∧ (t.getV 15).toNat = (s.getV x).toNat % 2) ∧
      (x = 15 → (t.getV 15).toNat = 0) ∧
      (∀ r, r ≠ x → r ≠ 15 → t.getV r = s.getV r) ∧ t.pc = s.pc + 2#16 ∧ UnchangedBut [.v, .pc] s t

/-- R94, with the clause order of R83 (the spec's decision D9, log 6): VF takes bit 0 of Vx, not bit 7; then Vx, the
flag itself when x = 15, is doubled modulo 256; the y field is not used. -/
def Obligations.ShiftLeftReportsBitZero : Prop :=
  ∀ (x y : RegIdx) (s : State),
    decodeWord (BitVec.ofNat 16 (0x800E + 0x100 * x.val + 0x10 * y.val)) = .ok (.shl x y) ∧
    ∃ t, exec (.shl x y) s = .next t ∧
      (x ≠ 15 → (t.getV x).toNat = 2 * (s.getV x).toNat % 256 ∧ (t.getV 15).toNat = (s.getV x).toNat % 2) ∧
      (x = 15 → (t.getV 15).toNat = 2 * ((s.getV 15).toNat % 2)) ∧
      (∀ r, r ≠ x → r ≠ 15 → t.getV r = s.getV r) ∧ t.pc = s.pc + 2#16 ∧ UnchangedBut [.v, .pc] s t

/-! ### Index register and memory (42_index_memory.md) -/

/-- R98: Annn sets I to the zero-extended nnn and advances PC by 2. -/
def Obligations.LoadIndexImmediate : Prop :=
  ∀ (nnn : BitVec 12) (s : State),
    decodeWord (BitVec.ofNat 16 (0xA000 + nnn.toNat)) = .ok (.ldI nnn) ∧
    ∃ t, exec (.ldI nnn) s = .next t ∧ t.i.toNat = nnn.toNat ∧ t.pc = s.pc + 2#16 ∧ UnchangedBut [.i, .pc] s t

/-- R99: modulo 2^16, the spec's decision D15 (log 11); VF untouched. -/
def Obligations.AddIndexWraps : Prop :=
  ∀ (x : RegIdx) (s : State),
    decodeWord (BitVec.ofNat 16 (0xF01E + 0x100 * x.val)) = .ok (.addI x) ∧
    ∃ t, exec (.addI x) s = .next t ∧ t.i.toNat = (s.i.toNat + (s.getV x).toNat) % 65536 ∧ t.pc = s.pc + 2#16 ∧
      UnchangedBut [.i, .pc] s t

/-- R100, R124: InvalidDigit (the latch and code 1 are the spec's decision D4, log 1) when Vx > 15; otherwise I = 5 Vx. That
the fatal case leaves all but HALT and CAUSE unchanged is a claim about the halted state and rests on D5 (U6, log 12). -/
def Obligations.GlyphAddressOfADigit : Prop :=
  ∀ (x : RegIdx) (s : State),
    decodeWord (BitVec.ofNat 16 (0xF029 + 0x100 * x.val)) = .ok (.ldF x) ∧
    (15 < (s.getV x).toNat → ∃ t, exec (.ldF x) s = .next t ∧ t.halt = true ∧ t.cause.toNat = 1 ∧
      UnchangedBut [.halt, .cause] s t) ∧
    ((s.getV x).toNat ≤ 15 → ∃ t, exec (.ldF x) s = .next t ∧ t.i.toNat = 5 * (s.getV x).toNat ∧
      t.pc = s.pc + 2#16 ∧ UnchangedBut [.i, .pc] s t)

/-- R101: OutOfBoundsMemory when I + 2 > 4095 (D4, D14: log 1, log 12); otherwise hundreds, tens, units at I, I + 1, I + 2.
That the fatal case leaves all but HALT and CAUSE unchanged is a claim about the halted state and rests on D5 (U6, log
12). -/
def Obligations.BcdStoresThreeDigits : Prop :=
  ∀ (x : RegIdx) (s : State),
    decodeWord (BitVec.ofNat 16 (0xF033 + 0x100 * x.val)) = .ok (.ldB x) ∧
    (4095 < s.i.toNat + 2 → ∃ t, exec (.ldB x) s = .next t ∧ t.halt = true ∧ t.cause.toNat = 4 ∧
      UnchangedBut [.halt, .cause] s t) ∧
    (s.i.toNat + 2 ≤ 4095 → ∃ t, exec (.ldB x) s = .next t ∧
      (t.readByte (s.ea 0)).toNat = (s.getV x).toNat / 100 ∧
      (t.readByte (s.ea 1)).toNat = (s.getV x).toNat / 10 % 10 ∧
      (t.readByte (s.ea 2)).toNat = (s.getV x).toNat % 10 ∧
      (∀ a, a < s.ea 0 ∨ s.ea 2 < a → t.readByte a = s.readByte a) ∧
      t.pc = s.pc + 2#16 ∧ UnchangedBut [.mem, .pc] s t)

/-- R102: OutOfBoundsMemory when I + x > 4095 (D4, D14: log 1, log 12); otherwise V[0] to V[x] at I to I + x, I
unchanged. That the fatal case leaves all but HALT and CAUSE unchanged is a claim about the halted state and rests on
D5 (U6, log 12). That I is unchanged is R102, U1 (log 19). -/
def Obligations.StoreRegistersToMemory : Prop :=
  ∀ (x : RegIdx) (s : State),
    decodeWord (BitVec.ofNat 16 (0xF055 + 0x100 * x.val)) = .ok (.ldMemVx x) ∧
    (4095 < s.i.toNat + x.val → ∃ t, exec (.ldMemVx x) s = .next t ∧ t.halt = true ∧ t.cause.toNat = 4 ∧
      UnchangedBut [.halt, .cause] s t) ∧
    (s.i.toNat + x.val ≤ 4095 → ∃ t, exec (.ldMemVx x) s = .next t ∧
      (∀ k : Fin 16, k ≤ x → t.readByte (s.ea k.val) = s.getV k) ∧
      (∀ a, a < s.ea 0 ∨ s.ea x.val < a → t.readByte a = s.readByte a) ∧
      t.pc = s.pc + 2#16 ∧ UnchangedBut [.mem, .pc] s t)

/-- R103: OutOfBoundsMemory when I + x > 4095 (D4, D14: log 1, log 12); otherwise V[0] to V[x] from I to I + x, then
I <- I + x + 1 (`FX65_ADVANCES_I`, U1, log 19). That the fatal case leaves all but HALT and CAUSE unchanged is a claim about
the halted state and rests on D5 (U6, log 12). -/
def Obligations.LoadRegistersFromMemory : Prop :=
  ∀ (x : RegIdx) (s : State),
    decodeWord (BitVec.ofNat 16 (0xF065 + 0x100 * x.val)) = .ok (.ldVxMem x) ∧
    (4095 < s.i.toNat + x.val → ∃ t, exec (.ldVxMem x) s = .next t ∧ t.halt = true ∧ t.cause.toNat = 4 ∧
      UnchangedBut [.halt, .cause] s t) ∧
    (s.i.toNat + x.val ≤ 4095 → ∃ t, exec (.ldVxMem x) s = .next t ∧
      (∀ k : Fin 16, t.getV k = if k ≤ x then s.readByte (s.i.toNat + k.val) else s.getV k) ∧
      t.i.toNat = s.i.toNat + x.val + 1 ∧ t.pc = s.pc + 2#16 ∧ UnchangedBut [.v, .i, .pc] s t)

/-! ### Timers and the key placeholder (43_timers_key.md) -/

/-- R104, R106, R107: Vx <- DT, DT <- Vx, ST <- Vx, each alone. -/
def Obligations.TimerInstructionsCopyOneByte : Prop :=
  ∀ (x : RegIdx) (s : State),
    (decodeWord (BitVec.ofNat 16 (0xF007 + 0x100 * x.val)) = .ok (.ldVxDt x) ∧
      ∃ t, exec (.ldVxDt x) s = .next t ∧ t.getV x = s.dt ∧ (∀ r, r ≠ x → t.getV r = s.getV r) ∧
        t.pc = s.pc + 2#16 ∧ UnchangedBut [.v, .pc] s t) ∧
    (decodeWord (BitVec.ofNat 16 (0xF015 + 0x100 * x.val)) = .ok (.ldDtVx x) ∧
      ∃ t, exec (.ldDtVx x) s = .next t ∧ t.dt = s.getV x ∧ t.pc = s.pc + 2#16 ∧ UnchangedBut [.dt, .pc] s t) ∧
    (decodeWord (BitVec.ofNat 16 (0xF018 + 0x100 * x.val)) = .ok (.ldStVx x) ∧
      ∃ t, exec (.ldStVx x) s = .next t ∧ t.st = s.getV x ∧ t.pc = s.pc + 2#16 ∧ UnchangedBut [.st, .pc] s t)

/-- R105: Fx0A changes nothing but PC, Vx included. -/
def Obligations.KeyWaitIsANoOp : Prop :=
  ∀ (x : RegIdx) (s : State),
    decodeWord (BitVec.ofNat 16 (0xF00A + 0x100 * x.val)) = .ok (.ldVxK x) ∧
    ∃ t, exec (.ldVxK x) s = .next t ∧ t.pc = s.pc + 2#16 ∧ UnchangedBut [.pc] s t

/-- R134: the value Fx07 reads is the one the last Fx15 wrote unless the host lowered it: a step changes DT only by
Fx15, and never changes ST but by Fx18 (R28, R134, D23: log 15). That a fatal step changes neither is a claim about
the halted state and rests on D5 (U6, log 12); that a halted machine's step changes neither is D26. That a step on a
hole of groups 0, 8 and F changes neither is D6 and D7 (log 8). -/
def Obligations.TimersChangeOnlyByTheirInstruction : Prop :=
  ∀ s t : State, step s = .next t →
    (t.dt ≠ s.dt → ∃ x : RegIdx, FetchesWord s (0xF015 + 0x100 * x.val) ∧ t.dt = s.getV x) ∧
    (t.st ≠ s.st → ∃ x : RegIdx, FetchesWord s (0xF018 + 0x100 * x.val) ∧ t.st = s.getV x)

/-! ### Display (44_display.md) -/

/-- R109: 00E0 zeroes all 256 framebuffer bytes and advances PC by 2; nothing else changes. -/
def Obligations.ClearZeroesTheFramebuffer : Prop :=
  ∀ s : State,
    decodeWord 0x00E0#16 = .ok .cls ∧
    ∃ t, exec .cls s = .next t ∧ (∀ k, k < 256 → fbByte t.fb k = 0) ∧ t.pc = s.pc + 2#16 ∧
      UnchangedBut [.fb, .pc] s t

/-- R110, R111, R112, R115: with every row in bounds, bit 7 − j of the sprite byte of row `row` is XORed into the
pixel at column (Vx + j) mod 64 and row Vy + row, and no other pixel changes; only FB, VF and PC change. Vx and Vy are
read before VF is written (D13), and with Vx mod 8 = 0 the second byte keeps its value (D12: log 10); the pixel form
is the one R115 derives. With n = 0 nothing is checked or drawn: C7 (R117, log 10). -/
def Obligations.DrawXorsTheSpriteIntoThePixels : Prop :=
  ∀ (x y : RegIdx) (n : Fin 16) (s : State),
    decodeWord (BitVec.ofNat 16 (0xD000 + 0x100 * x.val + 0x10 * y.val + n.val)) = .ok (.drw x y n) ∧
    (n.val = 0 ∨ (s.i.toNat + n.val ≤ 4096 ∧ (s.getV x).toNat ≤ 63 ∧ (s.getV y).toNat + n.val ≤ 32) →
      ∃ t, exec (.drw x y n) s = .next t ∧
        (∀ row j, row < n.val → j < 8 →
          fbPixel t.fb (((s.getV x).toNat + j) % 64) ((s.getV y).toNat + row) =
            ((s.readByte (s.i.toNat + row)).getLsbD (7 - j) !=
              fbPixel s.fb (((s.getV x).toNat + j) % 64) ((s.getV y).toNat + row))) ∧
        (∀ c r, c < 64 → r < 32 →
          (∀ row j, row < n.val → j < 8 → c = ((s.getV x).toNat + j) % 64 → r ≠ (s.getV y).toNat + row) →
          fbPixel t.fb c r = fbPixel s.fb c r) ∧
        (∀ r, r ≠ 15 → t.getV r = s.getV r) ∧ t.pc = s.pc + 2#16 ∧ UnchangedBut [.fb, .v, .pc] s t)

/-- R113, R117: VF is 1 when a set bit of some sprite row lands on a pixel that was lit, and 0 otherwise, whatever it
held; with n = 0 it is 0. The OR over the rows is the spec's decision D10 (U15, log 9); that Vx and Vy are read before
VF is written is D13, and that the second byte is untouched when Vx mod 8 = 0 is D12 (log 10). That a draw with n = 0
completes is C7 (log 10). -/
def Obligations.DrawReportsCollision : Prop :=
  ∀ (x y : RegIdx) (n : Fin 16) (s : State),
    (n.val = 0 ∨ (s.i.toNat + n.val ≤ 4096 ∧ (s.getV x).toNat ≤ 63 ∧ (s.getV y).toNat + n.val ≤ 32)) →
      ∃ t, exec (.drw x y n) s = .next t ∧
        ((∃ row j, row < n.val ∧ j < 8 ∧ (s.readByte (s.i.toNat + row)).getLsbD (7 - j) = true ∧
            fbPixel s.fb (((s.getV x).toNat + j) % 64) ((s.getV y).toNat + row) = true) →
          (t.getV 15).toNat = 1) ∧
        ((∀ row j, row < n.val → j < 8 → (s.readByte (s.i.toNat + row)).getLsbD (7 - j) = true →
            fbPixel s.fb (((s.getV x).toNat + j) % 64) ((s.getV y).toNat + row) = false) →
          (t.getV 15).toNat = 0)

/-- R111: one sprite row, byte by byte: the high part is XORed into byte px div 8 of the row, the low part into the
next byte of the same row, wrapping from 7 to 0; with px mod 8 = 0 the low part is 0 (D12, log 10). -/
def Obligations.SpriteRowTouchesTwoBytes : Prop :=
  ∀ (px r : Nat) (b : Byte) (fb : Vector Byte 256), px < 64 → r < 32 →
    ∃ i0 i1 : Nat, i0 = 8 * r + px / 8 ∧ i1 = 8 * r + (px / 8 + 1) % 8 ∧ i0 ≠ i1 ∧
      (fbByte (drawRow px r b fb).1 i0).toNat = (fbByte fb i0).toNat ^^^ (b.toNat / 2 ^ (px % 8)) ∧
      (fbByte (drawRow px r b fb).1 i1).toNat = (fbByte fb i1).toNat ^^^ (b.toNat * 2 ^ (8 - px % 8) % 256) ∧
      ∀ k, k ≠ i0 → k ≠ i1 → fbByte (drawRow px r b fb).1 k = fbByte fb k

/-- R114, R128: the fatal draws and their cause; nothing is drawn, VF is not written. With n = 0 none is fatal.
Columns above 63 (D11), the order (D28), the latch and codes (D4) are the spec's decisions (log 1, log 10, log 12).
That a fatal draw leaves all but HALT and CAUSE unchanged is a claim about the halted state and rests on D5 (U6, log
12). That none is fatal with n = 0 is C7 (R117, log 10), and addresses are exact by D14 (log 12). -/
def Obligations.DrawOutOfBoundsIsFatal : Prop :=
  ∀ (x y : RegIdx) (n : Fin 16) (s : State), s.halt = false →
    ∃ t, exec (.drw x y n) s = .next t ∧
      (t.halt = true ↔ n.val ≠ 0 ∧
        (4095 < s.i.toNat + n.val - 1 ∨ 63 < (s.getV x).toNat ∨ 31 < (s.getV y).toNat + n.val - 1)) ∧
      (t.halt = true → UnchangedBut [.halt, .cause] s t ∧
        ∃ row, row < n.val ∧
          (∀ k, k < row → s.i.toNat + k ≤ 4095 ∧ (s.getV x).toNat ≤ 63 ∧ (s.getV y).toNat + k ≤ 31) ∧
          ((4095 < s.i.toNat + row ∧ t.cause.toNat = 4) ∨
            (s.i.toNat + row ≤ 4095 ∧ (63 < (s.getV x).toNat ∨ 31 < (s.getV y).toNat + row) ∧ t.cause.toNat = 5)))

/-- R116: drawing the same sprite twice at the same position restores the framebuffer exactly, and the second draw has
VF = 1 if the first lit a pixel (the spec derives both in R116). The clause about VF rests on the spec's decision D10:
the flag is the OR over the rows (`DRW_VF_ACCUMULATES`, U15; log 9). With the last row alone deciding, it would be
false. That Vx and Vy are read before VF is written is D13, and that a shift by 8 gives 0 is D12 (log 10). A draw with
n = 0 completes by C7 (log 10). -/
def Obligations.DrawingTwiceRestoresTheFramebuffer : Prop :=
  ∀ (x y : RegIdx) (n : Fin 16) (s : State),
    (n.val = 0 ∨ (s.i.toNat + n.val ≤ 4096 ∧ (s.getV x).toNat ≤ 63 ∧ (s.getV y).toNat + n.val ≤ 32)) →
      ∃ t, exec (.drw x y n) s = .next t ∧
        (t.getV x = s.getV x → t.getV y = s.getV y →
          ∃ u, exec (.drw x y n) t = .next u ∧
            (∀ k, fbByte u.fb k = fbByte s.fb k) ∧ (∀ r, r ≠ 15 → u.getV r = s.getV r) ∧ UnchangedBut [.v, .pc] s u ∧
            ((∃ c r, c < 64 ∧ r < 32 ∧ fbPixel s.fb c r = false ∧ fbPixel t.fb c r = true) → (u.getV 15).toNat = 1))
end

