-- ==== Sys2Proof/Laws/Config.lean ====
section
/-! SUPPORT. The parameters of 00_scope.md R10 agree with the types and with each other, and the font table has the
shape of R50 and R140. -/

namespace Sys2Proof.Config

theorem reg_has_reg_width : Reg = BitVec regW := rfl
theorem timer_has_timer_width : Timer = BitVec timerW := rfl
theorem indexWord_has_index_width : IndexWord = BitVec iW := rfl
theorem pcWord_has_pc_width : PcWord = BitVec pcW := rfl
theorem stackWord_has_stack_width : StackWord = BitVec stackW := rfl
theorem regIdx_indexes_the_registers : RegIdx = Fin nregs := rfl
theorem stackIdx_indexes_the_stack : StackIdx = Fin stackDepth := rfl
theorem flagReg_is_vf : RegIdx.vf.val = flagReg := rfl
theorem fbBytes_are_rows : fbBytes = fbRows * rowBytes := rfl
theorem rowBytes_are_columns : rowBytes * 8 = fbCols := rfl
theorem maxImage_value : maxImage = 3584 := rfl

theorem font_length : font.length = fontDigits * glyphBytes := by decide

/-- The document's own glyph: digit 0 (R140). -/
theorem font_digit0 : font.take 5 = [0xF0, 0x90, 0x90, 0x90, 0xF0] := by decide

/-- The low nibble of every font byte is 0 (R140). -/
theorem font_low_nibbles : ∀ b ∈ font, b &&& 0x0F = 0 := by decide

/-- Above the font, memory is zero at reset (R35). -/
theorem resetByte_above_font (a : Nat) (h : 80 ≤ a) : resetByte a = 0 := by
  have : font.length = 80 := font_length
  simp [resetByte, List.getElem?_eq_none (show font.length ≤ a by omega)]

end Sys2Proof.Config
end

