-- ==== Sys2Proof/Laws/Decode.lean ====
section
/-! SUPPORT. The fields of a word and of an encoded word as numbers, and the masks of the opcode table as numbers: what
proofs about decoding and encoding cite instead of unfolding bit vectors. -/

namespace Sys2Proof

/-! ### Fields as numbers -/

theorem fieldOp_toNat (w : Word) : (fieldOp w).toNat = w.toNat / 4096 := by
  have := w.isLt
  simp only [fieldOp, BitVec.extractLsb'_toNat, Nat.shiftRight_eq_div_pow]
  omega

theorem fieldX_val (w : Word) : (fieldX w).val = w.toNat / 256 % 16 := by
  show (w.extractLsb' 8 4).toNat = _
  simp [BitVec.extractLsb'_toNat, Nat.shiftRight_eq_div_pow]

theorem fieldY_val (w : Word) : (fieldY w).val = w.toNat / 16 % 16 := by
  show (w.extractLsb' 4 4).toNat = _
  simp [BitVec.extractLsb'_toNat, Nat.shiftRight_eq_div_pow]

theorem fieldN_toNat (w : Word) : (fieldN w).toNat = w.toNat % 16 := by
  simp [fieldN, BitVec.extractLsb'_toNat]

theorem fieldKk_toNat (w : Word) : (fieldKk w).toNat = w.toNat % 256 := by
  simp [fieldKk, BitVec.extractLsb'_toNat]

theorem fieldNnn_toNat (w : Word) : (fieldNnn w).toNat = w.toNat % 4096 := by
  simp [fieldNnn, BitVec.extractLsb'_toNat]

/-! ### Words as numbers -/

theorem wordOfNibbles_toNat (a b c d : Nat) (ha : a < 16) (hb : b < 16) (hc : c < 16) (hd : d < 16) :
    (wordOfNibbles a b c d).toNat = 4096 * a + 256 * b + 16 * c + d := by
  simp only [wordOfNibbles, BitVec.toNat_ofNat]
  omega

theorem wordA_toNat (a : Nat) (nnn : BitVec 12) (ha : a < 16) : (wordA a nnn).toNat = 4096 * a + nnn.toNat := by
  have := nnn.isLt
  simp only [wordA, BitVec.toNat_ofNat]
  omega

theorem wordXK_toNat (a : Nat) (x : RegIdx) (kk : Byte) (ha : a < 16) :
    (wordXK a x kk).toNat = 4096 * a + 256 * x.val + kk.toNat := by
  have := kk.isLt
  have := x.isLt
  simp only [wordXK, BitVec.toNat_ofNat]
  omega

theorem wordOfBytes_toNat (hi lo : Byte) : (wordOfBytes hi lo).toNat = 256 * hi.toNat + lo.toNat := by
  have := hi.isLt
  have := lo.isLt
  simp only [wordOfBytes, BitVec.toNat_ofNat]
  omega

theorem highByte_toNat (w : Word) : (highByte w).toNat = w.toNat / 256 := by
  have := w.isLt
  simp only [highByte, BitVec.extractLsb'_toNat, Nat.shiftRight_eq_div_pow]
  omega

theorem lowByte_toNat (w : Word) : (lowByte w).toNat = w.toNat % 256 := by
  simp [lowByte, BitVec.extractLsb'_toNat]

/-- A word split into its two bytes and put together again is itself. -/
theorem wordOfBytes_high_low (w : Word) : wordOfBytes (highByte w) (lowByte w) = w := by
  apply BitVec.eq_of_toNat_eq
  rw [wordOfBytes_toNat, highByte_toNat, lowByte_toNat]
  omega

/-! ### Masks as numbers -/

theorem mask_op (w : Word) : (w &&& 0xF000#16).toNat = w.toNat / 4096 * 4096 := by
  have h : w &&& 0xF000#16 = (w >>> 12) <<< 12 := by
    ext i hi
    have : i < 16 := hi
    interval_cases i <;> simp
  have := w.isLt
  rw [h]
  simp only [BitVec.toNat_shiftLeft, BitVec.toNat_ushiftRight, Nat.shiftLeft_eq, Nat.shiftRight_eq_div_pow]
  omega

theorem mask_low4 (w : Word) : (w &&& 0x000F#16).toNat = w.toNat % 16 := by
  have h : w &&& 0x000F#16 = (w <<< 12) >>> 12 := by
    ext i hi
    have : i < 16 := hi
    interval_cases i <;> simp
  rw [h]
  simp only [BitVec.toNat_shiftLeft, BitVec.toNat_ushiftRight, Nat.shiftLeft_eq, Nat.shiftRight_eq_div_pow]
  omega

theorem mask_low8 (w : Word) : (w &&& 0x00FF#16).toNat = w.toNat % 256 := by
  have h : w &&& 0x00FF#16 = (w <<< 8) >>> 8 := by
    ext i hi
    have : i < 16 := hi
    interval_cases i <;> simp
  rw [h]
  simp only [BitVec.toNat_shiftLeft, BitVec.toNat_ushiftRight, Nat.shiftLeft_eq, Nat.shiftRight_eq_div_pow]
  omega

/-- The mask of group 8 keeps op and the low nibble. -/
theorem mask_op_low4 (w : Word) : (w &&& 0xF00F#16).toNat = w.toNat / 4096 * 4096 + w.toNat % 16 := by
  have h : w &&& 0xF00F#16 = (w &&& 0xF000#16) + (w &&& 0x000F#16) := by
    rw [BitVec.add_eq_or_of_and_eq_zero _ _ (by ext i hi; have : i < 16 := hi; interval_cases i <;> simp)]
    ext i hi
    have : i < 16 := hi
    interval_cases i <;> simp
  have := w.isLt
  rw [h, BitVec.toNat_add, mask_op, mask_low4]
  omega

/-- The mask of group F keeps op and the low byte. -/
theorem mask_op_low8 (w : Word) : (w &&& 0xF0FF#16).toNat = w.toNat / 4096 * 4096 + w.toNat % 256 := by
  have h : w &&& 0xF0FF#16 = (w &&& 0xF000#16) + (w &&& 0x00FF#16) := by
    rw [BitVec.add_eq_or_of_and_eq_zero _ _ (by ext i hi; have : i < 16 := hi; interval_cases i <;> simp)]
    ext i hi
    have : i < 16 := hi
    interval_cases i <;> simp
  have := w.isLt
  rw [h, BitVec.toNat_add, mask_op, mask_low8]
  omega

/-- A row of the table matches a word when the masked word, as a number, is the pattern. -/
theorem OpcodeRow.matches_iff (r : OpcodeRow) (w : Word) :
    r.matches w = true ↔ (w &&& r.mask).toNat = r.pattern.toNat := by
  simp only [OpcodeRow.matches, beq_iff_eq]
  exact ⟨fun h => by rw [h], BitVec.eq_of_toNat_eq⟩

/-! ### Dispatch on the fields of a word whose number is known -/

/-- The primary dispatch (R64): the top nibble chooses the arm. -/
theorem decodeWord_of_op (w : Word) (op : Nat) : w.toNat / 4096 = op → decodeWord w = (match op with
    | 0 => decodeGroup0 w
    | 1 => .ok (.jp (fieldNnn w))
    | 2 => .ok (.call (fieldNnn w))
    | 3 => .ok (.seImm (fieldX w) (fieldKk w))
    | 4 => .ok (.sneImm (fieldX w) (fieldKk w))
    | 5 => .ok (.seReg (fieldX w) (fieldY w) (fieldN w))
    | 6 => .ok (.ldImm (fieldX w) (fieldKk w))
    | 7 => .ok (.addImm (fieldX w) (fieldKk w))
    | 8 => decodeGroup8 w
    | 9 => .ok (.sneReg (fieldX w) (fieldY w) (fieldN w))
    | 10 => .ok (.ldI (fieldNnn w))
    | 13 => .ok (.drw (fieldX w) (fieldY w) (fieldN w).toFin)
    | 15 => decodeGroupF w
    | _ => .error .topNibble) := by
  intro h
  subst h
  unfold decodeWord
  rw [fieldOp_toNat] <;> rfl

/-- The fields of a format `A` word. -/
theorem fields_of_nnn (w : Word) (op : Nat) (nnn : BitVec 12) (h : w.toNat = 4096 * op + nnn.toNat) :
    w.toNat / 4096 = op ∧ fieldNnn w = nnn := by
  have := nnn.isLt
  exact ⟨by omega, BitVec.eq_of_toNat_eq (by rw [fieldNnn_toNat]; omega)⟩

/-- The fields of a format `XK` or `XF` word. -/
theorem fields_of_xk (w : Word) (op : Nat) (x : RegIdx) (kk : Byte) (h : w.toNat = 4096 * op + 256 * x.val + kk.toNat) :
    w.toNat / 4096 = op ∧ fieldX w = x ∧ fieldKk w = kk := by
  have := x.isLt
  have := kk.isLt
  exact ⟨by omega, Fin.ext (by rw [fieldX_val]; omega), BitVec.eq_of_toNat_eq (by rw [fieldKk_toNat]; omega)⟩

/-- The fields of a format `XY` or `XYN` word. -/
theorem fields_of_xyn (w : Word) (op : Nat) (x y : RegIdx) (n : BitVec 4)
    (h : w.toNat = 4096 * op + 256 * x.val + 16 * y.val + n.toNat) :
    w.toNat / 4096 = op ∧ fieldX w = x ∧ fieldY w = y ∧ fieldN w = n := by
  have := x.isLt
  have := y.isLt
  have := n.isLt
  exact ⟨by omega, Fin.ext (by rw [fieldX_val]; omega), Fin.ext (by rw [fieldY_val]; omega),
    BitVec.eq_of_toNat_eq (by rw [fieldN_toNat]; omega)⟩

end Sys2Proof
end

