-- ==== Sys2Proof/Laws/Memory.lean ====
section
/-! SUPPORT. The laws of memory: a read after a write, and that every operation keeps the canonical form. -/

namespace Sys2Proof.Machine

theorem Memory.read_erase_self (m : Memory) (a : Nat) : (Memory.erase a m).read a = Config.resetByte a := by
  induction m with
  | nil => rfl
  | cons c m ih =>
    obtain ⟨k, b⟩ := c
    by_cases h : k = a
    · simpa [Memory.erase, h] using ih
    · simpa [Memory.erase, Memory.read, h] using ih

theorem Memory.read_erase_ne (m : Memory) (a a' : Nat) (h : a' ≠ a) : (Memory.erase a m).read a' = m.read a' := by
  induction m with
  | nil => rfl
  | cons c m ih =>
    obtain ⟨k, b⟩ := c
    by_cases hk : k = a
    · have : k ≠ a' := fun e => h (e.symm.trans hk)
      simpa [Memory.erase, Memory.read, hk, this, Ne.symm h] using ih
    · by_cases hk' : k = a'
      · simp [Memory.erase, Memory.read, hk', h]
      · simpa [Memory.erase, Memory.read, hk, hk'] using ih

theorem Memory.read_insert_self (m : Memory) (a : Nat) (b : Byte) (h : ∀ c ∈ m, c.1 ≠ a) :
    (Memory.insert a b m).read a = b := by
  induction m with
  | nil => simp [Memory.insert, Memory.read]
  | cons c m ih =>
    obtain ⟨k, d⟩ := c
    have hk : k ≠ a := h (k, d) (by simp)
    by_cases hlt : a < k
    · simp [Memory.insert, Memory.read, hlt]
    · simpa [Memory.insert, Memory.read, hlt, hk] using ih (fun c hc => h c (by simp [hc]))

theorem Memory.read_insert_ne (m : Memory) (a a' : Nat) (b : Byte) (h : a' ≠ a) :
    (Memory.insert a b m).read a' = m.read a' := by
  induction m with
  | nil => simp [Memory.insert, Memory.read, Ne.symm h]
  | cons c m ih =>
    obtain ⟨k, d⟩ := c
    by_cases hlt : a < k
    · simp [Memory.insert, Memory.read, hlt, Ne.symm h]
    · by_cases hk : k = a'
      · subst hk; simp [Memory.insert, Memory.read, hlt]
      · simpa [Memory.insert, Memory.read, hlt, hk] using ih

theorem Memory.not_mem_erase (m : Memory) (a : Nat) : ∀ c ∈ Memory.erase a m, c.1 ≠ a := by
  intro c hc
  simpa using (List.mem_filter.mp hc).2

/-- A read after a write to the same address gives the byte written, in every memory. -/
@[simp] theorem Memory.read_write_self (m : Memory) (a : Nat) (b : Byte) : (m.write a b).read a = b := by
  unfold Memory.write
  split
  · rename_i h; rw [Memory.read_erase_self, h]
  · exact Memory.read_insert_self _ _ _ (Memory.not_mem_erase m a)

/-- A write leaves every other address alone. -/
@[simp] theorem Memory.read_write_ne (m : Memory) (a a' : Nat) (b : Byte) (h : a' ≠ a) :
    (m.write a b).read a' = m.read a' := by
  unfold Memory.write
  split
  · exact Memory.read_erase_ne m a a' h
  · rw [Memory.read_insert_ne _ _ _ _ h, Memory.read_erase_ne m a a' h]

/-- A run of bytes leaves every address outside it alone. -/
theorem Memory.read_writeBytes_outside (bs : List Byte) :
    ∀ (m : Memory) (a a' : Nat), (a' < a ∨ a + bs.length ≤ a') → (m.writeBytes a bs).read a' = m.read a' := by
  induction bs with
  | nil => intro m a a' _; rfl
  | cons b bs ih =>
    intro m a a' h
    simp only [List.length_cons] at h
    rw [Memory.writeBytes, ih _ _ _ (by omega), Memory.read_write_ne _ _ _ _ (by omega)]

/-- A run of bytes is read back as written. -/
theorem Memory.read_writeBytes_inside (bs : List Byte) :
    ∀ (m : Memory) (a j : Nat) (h : j < bs.length), (m.writeBytes a bs).read (a + j) = bs[j] := by
  induction bs with
  | nil => intro m a j h; simp at h
  | cons b bs ih =>
    intro m a j h
    cases j with
    | zero => rw [Memory.writeBytes, Memory.read_writeBytes_outside bs _ _ _ (by omega)]; simp
    | succ j =>
      have hj : j < bs.length := by simpa using h
      rw [Memory.writeBytes, show a + (j + 1) = a + 1 + j by omega, ih _ _ _ hj]
      simp

theorem Memory.wfFrom_mono (m : Memory) (lo lo' : Nat) (h : lo' ≤ lo) (hw : Memory.wfFrom lo m = true) :
    Memory.wfFrom lo' m = true := by
  cases m with
  | nil => rfl
  | cons c m =>
    obtain ⟨k, b⟩ := c
    simp only [Memory.wfFrom, Bool.and_eq_true, decide_eq_true_eq] at hw ⊢
    exact ⟨⟨⟨by omega, hw.1.1.2⟩, hw.1.2⟩, hw.2⟩

theorem Memory.wfFrom_erase (m : Memory) (a : Nat) :
    ∀ lo, Memory.wfFrom lo m = true → Memory.wfFrom lo (Memory.erase a m) = true := by
  induction m with
  | nil => intro lo _; rfl
  | cons c m ih =>
    obtain ⟨k, b⟩ := c
    intro lo hw
    simp only [Memory.wfFrom, Bool.and_eq_true, decide_eq_true_eq] at hw
    by_cases h : k = a
    · have := ih _ hw.2
      simpa [Memory.erase, h] using Memory.wfFrom_mono _ _ lo (by omega) this
    · have := ih _ hw.2
      have e : Memory.erase a ((k, b) :: m) = (k, b) :: Memory.erase a m := by simp [Memory.erase, h]
      rw [e]
      simp only [Memory.wfFrom, Bool.and_eq_true, decide_eq_true_eq]
      exact ⟨hw.1, this⟩

theorem Memory.wfFrom_insert (m : Memory) (a : Nat) (b : Byte) (ha : a < Config.memSize) (hb : b ≠ Config.resetByte a)
    (hm : ∀ c ∈ m, c.1 ≠ a) :
    ∀ lo, lo ≤ a → Memory.wfFrom lo m = true → Memory.wfFrom lo (Memory.insert a b m) = true := by
  induction m with
  | nil =>
    intro lo hlo _
    have ha' : a < 4096 := ha
    simp [Memory.insert, Memory.wfFrom, hlo, ha', hb]
  | cons c m ih =>
    obtain ⟨k, d⟩ := c
    intro lo hlo hw
    have hk : k ≠ a := hm (k, d) (by simp)
    simp only [Memory.wfFrom, Bool.and_eq_true, decide_eq_true_eq] at hw
    by_cases hlt : a < k
    · simp only [Memory.insert, hlt, if_true, Memory.wfFrom, Bool.and_eq_true, decide_eq_true_eq]
      exact ⟨⟨⟨hlo, ha⟩, by simpa using hb⟩, ⟨⟨⟨by omega, hw.1.1.2⟩, hw.1.2⟩, hw.2⟩⟩
    · simp only [Memory.insert, hlt, if_false, Memory.wfFrom, Bool.and_eq_true, decide_eq_true_eq]
      exact ⟨hw.1, ih (fun c hc => hm c (by simp [hc])) _ (by omega) hw.2⟩

/-- A write inside the address space keeps the canonical form. -/
theorem Memory.wf_write (m : Memory) (a : Nat) (b : Byte) (ha : a < 4096) (h : m.wf = true) :
    (m.write a b).wf = true := by
  unfold Memory.write Memory.wf
  split
  · exact Memory.wfFrom_erase m a 0 h
  · rename_i hb
    exact Memory.wfFrom_insert _ a b ha hb (Memory.not_mem_erase m a) 0 (by omega) (Memory.wfFrom_erase m a 0 h)

/-- A run of bytes inside the address space keeps the canonical form. -/
theorem Memory.wf_writeBytes (bs : List Byte) :
    ∀ (m : Memory) (a : Nat), a + bs.length ≤ 4096 → m.wf = true → (m.writeBytes a bs).wf = true := by
  induction bs with
  | nil => intro m a _ h; exact h
  | cons b bs ih =>
    intro m a ha h
    simp only [List.length_cons] at ha
    exact ih _ _ (by omega) (Memory.wf_write m a b (by omega) h)

/-- The canonical memory lists nothing outside the address space. -/
theorem Memory.read_outside (m : Memory) :
    ∀ lo a, Memory.wfFrom lo m = true → 4096 ≤ a → m.read a = Config.resetByte a := by
  induction m with
  | nil => intro lo a _ _; rfl
  | cons c m ih =>
    obtain ⟨k, b⟩ := c
    intro lo a hw ha
    simp only [Memory.wfFrom, Bool.and_eq_true, decide_eq_true_eq] at hw
    have hk : k < 4096 := hw.1.1.2
    have : k ≠ a := by omega
    simpa [Memory.read, this] using ih _ a hw.2 ha

/-- The reset memory has the canonical form. -/
theorem reset_mem_wf : State.reset.mem.wf = true := rfl

end Sys2Proof.Machine
end

