-- ==== Sys2Proof/Laws/State.lean ====
section
/-! SUPPORT. One lemma per field per update of State, so that no later proof unfolds a record update, and the reads of a
register, a stack entry and a framebuffer byte after each write. -/

namespace Sys2Proof.Machine

/-- VF is register 15 (`FLAG_REG`, R10). -/
@[simp] theorem vf_eq : RegIdx.vf = 15 := rfl

/-! ### setV -/

@[simp] theorem State.setV_v (s : State) (x : RegIdx) (b : Reg) : (s.setV x b).v = s.v.set x.val b := rfl
@[simp] theorem State.setV_i (s : State) (x : RegIdx) (b : Reg) : (s.setV x b).i = s.i := rfl
@[simp] theorem State.setV_pc (s : State) (x : RegIdx) (b : Reg) : (s.setV x b).pc = s.pc := rfl
@[simp] theorem State.setV_sp (s : State) (x : RegIdx) (b : Reg) : (s.setV x b).sp = s.sp := rfl
@[simp] theorem State.setV_stack (s : State) (x : RegIdx) (b : Reg) : (s.setV x b).stack = s.stack := rfl
@[simp] theorem State.setV_dt (s : State) (x : RegIdx) (b : Reg) : (s.setV x b).dt = s.dt := rfl
@[simp] theorem State.setV_st (s : State) (x : RegIdx) (b : Reg) : (s.setV x b).st = s.st := rfl
@[simp] theorem State.setV_fb (s : State) (x : RegIdx) (b : Reg) : (s.setV x b).fb = s.fb := rfl
@[simp] theorem State.setV_mem (s : State) (x : RegIdx) (b : Reg) : (s.setV x b).mem = s.mem := rfl
@[simp] theorem State.setV_opcode (s : State) (x : RegIdx) (b : Reg) : (s.setV x b).opcode = s.opcode := rfl
@[simp] theorem State.setV_halt (s : State) (x : RegIdx) (b : Reg) : (s.setV x b).halt = s.halt := rfl
@[simp] theorem State.setV_cause (s : State) (x : RegIdx) (b : Reg) : (s.setV x b).cause = s.cause := rfl

/-! ### setRegs -/

@[simp] theorem State.setRegs_v (s : State) (w : Vector Reg Config.nregs) : (s.setRegs w).v = w := rfl
@[simp] theorem State.setRegs_i (s : State) (w : Vector Reg Config.nregs) : (s.setRegs w).i = s.i := rfl
@[simp] theorem State.setRegs_pc (s : State) (w : Vector Reg Config.nregs) : (s.setRegs w).pc = s.pc := rfl
@[simp] theorem State.setRegs_sp (s : State) (w : Vector Reg Config.nregs) : (s.setRegs w).sp = s.sp := rfl
@[simp] theorem State.setRegs_stack (s : State) (w : Vector Reg Config.nregs) : (s.setRegs w).stack = s.stack := rfl
@[simp] theorem State.setRegs_dt (s : State) (w : Vector Reg Config.nregs) : (s.setRegs w).dt = s.dt := rfl
@[simp] theorem State.setRegs_st (s : State) (w : Vector Reg Config.nregs) : (s.setRegs w).st = s.st := rfl
@[simp] theorem State.setRegs_fb (s : State) (w : Vector Reg Config.nregs) : (s.setRegs w).fb = s.fb := rfl
@[simp] theorem State.setRegs_mem (s : State) (w : Vector Reg Config.nregs) : (s.setRegs w).mem = s.mem := rfl
@[simp] theorem State.setRegs_opcode (s : State) (w : Vector Reg Config.nregs) : (s.setRegs w).opcode = s.opcode := rfl
@[simp] theorem State.setRegs_halt (s : State) (w : Vector Reg Config.nregs) : (s.setRegs w).halt = s.halt := rfl
@[simp] theorem State.setRegs_cause (s : State) (w : Vector Reg Config.nregs) : (s.setRegs w).cause = s.cause := rfl

/-! ### setI -/

@[simp] theorem State.setI_v (s : State) (a : IndexWord) : (s.setI a).v = s.v := rfl
@[simp] theorem State.setI_i (s : State) (a : IndexWord) : (s.setI a).i = a := rfl
@[simp] theorem State.setI_pc (s : State) (a : IndexWord) : (s.setI a).pc = s.pc := rfl
@[simp] theorem State.setI_sp (s : State) (a : IndexWord) : (s.setI a).sp = s.sp := rfl
@[simp] theorem State.setI_stack (s : State) (a : IndexWord) : (s.setI a).stack = s.stack := rfl
@[simp] theorem State.setI_dt (s : State) (a : IndexWord) : (s.setI a).dt = s.dt := rfl
@[simp] theorem State.setI_st (s : State) (a : IndexWord) : (s.setI a).st = s.st := rfl
@[simp] theorem State.setI_fb (s : State) (a : IndexWord) : (s.setI a).fb = s.fb := rfl
@[simp] theorem State.setI_mem (s : State) (a : IndexWord) : (s.setI a).mem = s.mem := rfl
@[simp] theorem State.setI_opcode (s : State) (a : IndexWord) : (s.setI a).opcode = s.opcode := rfl
@[simp] theorem State.setI_halt (s : State) (a : IndexWord) : (s.setI a).halt = s.halt := rfl
@[simp] theorem State.setI_cause (s : State) (a : IndexWord) : (s.setI a).cause = s.cause := rfl

/-! ### setDt -/

@[simp] theorem State.setDt_v (s : State) (b : Timer) : (s.setDt b).v = s.v := rfl
@[simp] theorem State.setDt_i (s : State) (b : Timer) : (s.setDt b).i = s.i := rfl
@[simp] theorem State.setDt_pc (s : State) (b : Timer) : (s.setDt b).pc = s.pc := rfl
@[simp] theorem State.setDt_sp (s : State) (b : Timer) : (s.setDt b).sp = s.sp := rfl
@[simp] theorem State.setDt_stack (s : State) (b : Timer) : (s.setDt b).stack = s.stack := rfl
@[simp] theorem State.setDt_dt (s : State) (b : Timer) : (s.setDt b).dt = b := rfl
@[simp] theorem State.setDt_st (s : State) (b : Timer) : (s.setDt b).st = s.st := rfl
@[simp] theorem State.setDt_fb (s : State) (b : Timer) : (s.setDt b).fb = s.fb := rfl
@[simp] theorem State.setDt_mem (s : State) (b : Timer) : (s.setDt b).mem = s.mem := rfl
@[simp] theorem State.setDt_opcode (s : State) (b : Timer) : (s.setDt b).opcode = s.opcode := rfl
@[simp] theorem State.setDt_halt (s : State) (b : Timer) : (s.setDt b).halt = s.halt := rfl
@[simp] theorem State.setDt_cause (s : State) (b : Timer) : (s.setDt b).cause = s.cause := rfl

/-! ### setSt -/

@[simp] theorem State.setSt_v (s : State) (b : Timer) : (s.setSt b).v = s.v := rfl
@[simp] theorem State.setSt_i (s : State) (b : Timer) : (s.setSt b).i = s.i := rfl
@[simp] theorem State.setSt_pc (s : State) (b : Timer) : (s.setSt b).pc = s.pc := rfl
@[simp] theorem State.setSt_sp (s : State) (b : Timer) : (s.setSt b).sp = s.sp := rfl
@[simp] theorem State.setSt_stack (s : State) (b : Timer) : (s.setSt b).stack = s.stack := rfl
@[simp] theorem State.setSt_dt (s : State) (b : Timer) : (s.setSt b).dt = s.dt := rfl
@[simp] theorem State.setSt_st (s : State) (b : Timer) : (s.setSt b).st = b := rfl
@[simp] theorem State.setSt_fb (s : State) (b : Timer) : (s.setSt b).fb = s.fb := rfl
@[simp] theorem State.setSt_mem (s : State) (b : Timer) : (s.setSt b).mem = s.mem := rfl
@[simp] theorem State.setSt_opcode (s : State) (b : Timer) : (s.setSt b).opcode = s.opcode := rfl
@[simp] theorem State.setSt_halt (s : State) (b : Timer) : (s.setSt b).halt = s.halt := rfl
@[simp] theorem State.setSt_cause (s : State) (b : Timer) : (s.setSt b).cause = s.cause := rfl

/-! ### setOpcode -/

@[simp] theorem State.setOpcode_v (s : State) (w : Word) : (s.setOpcode w).v = s.v := rfl
@[simp] theorem State.setOpcode_i (s : State) (w : Word) : (s.setOpcode w).i = s.i := rfl
@[simp] theorem State.setOpcode_pc (s : State) (w : Word) : (s.setOpcode w).pc = s.pc := rfl
@[simp] theorem State.setOpcode_sp (s : State) (w : Word) : (s.setOpcode w).sp = s.sp := rfl
@[simp] theorem State.setOpcode_stack (s : State) (w : Word) : (s.setOpcode w).stack = s.stack := rfl
@[simp] theorem State.setOpcode_dt (s : State) (w : Word) : (s.setOpcode w).dt = s.dt := rfl
@[simp] theorem State.setOpcode_st (s : State) (w : Word) : (s.setOpcode w).st = s.st := rfl
@[simp] theorem State.setOpcode_fb (s : State) (w : Word) : (s.setOpcode w).fb = s.fb := rfl
@[simp] theorem State.setOpcode_mem (s : State) (w : Word) : (s.setOpcode w).mem = s.mem := rfl
@[simp] theorem State.setOpcode_opcode (s : State) (w : Word) : (s.setOpcode w).opcode = w := rfl
@[simp] theorem State.setOpcode_halt (s : State) (w : Word) : (s.setOpcode w).halt = s.halt := rfl
@[simp] theorem State.setOpcode_cause (s : State) (w : Word) : (s.setOpcode w).cause = s.cause := rfl

/-! ### setPc -/

@[simp] theorem State.setPc_v (s : State) (a : PcWord) : (s.setPc a).v = s.v := rfl
@[simp] theorem State.setPc_i (s : State) (a : PcWord) : (s.setPc a).i = s.i := rfl
@[simp] theorem State.setPc_pc (s : State) (a : PcWord) : (s.setPc a).pc = a := rfl
@[simp] theorem State.setPc_sp (s : State) (a : PcWord) : (s.setPc a).sp = s.sp := rfl
@[simp] theorem State.setPc_stack (s : State) (a : PcWord) : (s.setPc a).stack = s.stack := rfl
@[simp] theorem State.setPc_dt (s : State) (a : PcWord) : (s.setPc a).dt = s.dt := rfl
@[simp] theorem State.setPc_st (s : State) (a : PcWord) : (s.setPc a).st = s.st := rfl
@[simp] theorem State.setPc_fb (s : State) (a : PcWord) : (s.setPc a).fb = s.fb := rfl
@[simp] theorem State.setPc_mem (s : State) (a : PcWord) : (s.setPc a).mem = s.mem := rfl
@[simp] theorem State.setPc_opcode (s : State) (a : PcWord) : (s.setPc a).opcode = s.opcode := rfl
@[simp] theorem State.setPc_halt (s : State) (a : PcWord) : (s.setPc a).halt = s.halt := rfl
@[simp] theorem State.setPc_cause (s : State) (a : PcWord) : (s.setPc a).cause = s.cause := rfl

/-! ### advance -/

@[simp] theorem State.advance_v (s : State) : (s.advance).v = s.v := rfl
@[simp] theorem State.advance_i (s : State) : (s.advance).i = s.i := rfl
@[simp] theorem State.advance_pc (s : State) : (s.advance).pc = s.pc + 2 := rfl
@[simp] theorem State.advance_sp (s : State) : (s.advance).sp = s.sp := rfl
@[simp] theorem State.advance_stack (s : State) : (s.advance).stack = s.stack := rfl
@[simp] theorem State.advance_dt (s : State) : (s.advance).dt = s.dt := rfl
@[simp] theorem State.advance_st (s : State) : (s.advance).st = s.st := rfl
@[simp] theorem State.advance_fb (s : State) : (s.advance).fb = s.fb := rfl
@[simp] theorem State.advance_mem (s : State) : (s.advance).mem = s.mem := rfl
@[simp] theorem State.advance_opcode (s : State) : (s.advance).opcode = s.opcode := rfl
@[simp] theorem State.advance_halt (s : State) : (s.advance).halt = s.halt := rfl
@[simp] theorem State.advance_cause (s : State) : (s.advance).cause = s.cause := rfl

/-! ### setSp -/

@[simp] theorem State.setSp_v (s : State) (p : Option StackIdx) : (s.setSp p).v = s.v := rfl
@[simp] theorem State.setSp_i (s : State) (p : Option StackIdx) : (s.setSp p).i = s.i := rfl
@[simp] theorem State.setSp_pc (s : State) (p : Option StackIdx) : (s.setSp p).pc = s.pc := rfl
@[simp] theorem State.setSp_sp (s : State) (p : Option StackIdx) : (s.setSp p).sp = p := rfl
@[simp] theorem State.setSp_stack (s : State) (p : Option StackIdx) : (s.setSp p).stack = s.stack := rfl
@[simp] theorem State.setSp_dt (s : State) (p : Option StackIdx) : (s.setSp p).dt = s.dt := rfl
@[simp] theorem State.setSp_st (s : State) (p : Option StackIdx) : (s.setSp p).st = s.st := rfl
@[simp] theorem State.setSp_fb (s : State) (p : Option StackIdx) : (s.setSp p).fb = s.fb := rfl
@[simp] theorem State.setSp_mem (s : State) (p : Option StackIdx) : (s.setSp p).mem = s.mem := rfl
@[simp] theorem State.setSp_opcode (s : State) (p : Option StackIdx) : (s.setSp p).opcode = s.opcode := rfl
@[simp] theorem State.setSp_halt (s : State) (p : Option StackIdx) : (s.setSp p).halt = s.halt := rfl
@[simp] theorem State.setSp_cause (s : State) (p : Option StackIdx) : (s.setSp p).cause = s.cause := rfl

/-! ### setStackAt -/

@[simp] theorem State.setStackAt_v (s : State) (k : StackIdx) (a : StackWord) : (s.setStackAt k a).v = s.v := rfl
@[simp] theorem State.setStackAt_i (s : State) (k : StackIdx) (a : StackWord) : (s.setStackAt k a).i = s.i := rfl
@[simp] theorem State.setStackAt_pc (s : State) (k : StackIdx) (a : StackWord) : (s.setStackAt k a).pc = s.pc := rfl
@[simp] theorem State.setStackAt_sp (s : State) (k : StackIdx) (a : StackWord) : (s.setStackAt k a).sp = s.sp := rfl
@[simp] theorem State.setStackAt_stack (s : State) (k : StackIdx) (a : StackWord) : (s.setStackAt k a).stack = s.stack.set k.val a := rfl
@[simp] theorem State.setStackAt_dt (s : State) (k : StackIdx) (a : StackWord) : (s.setStackAt k a).dt = s.dt := rfl
@[simp] theorem State.setStackAt_st (s : State) (k : StackIdx) (a : StackWord) : (s.setStackAt k a).st = s.st := rfl
@[simp] theorem State.setStackAt_fb (s : State) (k : StackIdx) (a : StackWord) : (s.setStackAt k a).fb = s.fb := rfl
@[simp] theorem State.setStackAt_mem (s : State) (k : StackIdx) (a : StackWord) : (s.setStackAt k a).mem = s.mem := rfl
@[simp] theorem State.setStackAt_opcode (s : State) (k : StackIdx) (a : StackWord) : (s.setStackAt k a).opcode = s.opcode := rfl
@[simp] theorem State.setStackAt_halt (s : State) (k : StackIdx) (a : StackWord) : (s.setStackAt k a).halt = s.halt := rfl
@[simp] theorem State.setStackAt_cause (s : State) (k : StackIdx) (a : StackWord) : (s.setStackAt k a).cause = s.cause := rfl

/-! ### storeBytes -/

@[simp] theorem State.storeBytes_v (s : State) (a : Nat) (bs : List Byte) : (s.storeBytes a bs).v = s.v := rfl
@[simp] theorem State.storeBytes_i (s : State) (a : Nat) (bs : List Byte) : (s.storeBytes a bs).i = s.i := rfl
@[simp] theorem State.storeBytes_pc (s : State) (a : Nat) (bs : List Byte) : (s.storeBytes a bs).pc = s.pc := rfl
@[simp] theorem State.storeBytes_sp (s : State) (a : Nat) (bs : List Byte) : (s.storeBytes a bs).sp = s.sp := rfl
@[simp] theorem State.storeBytes_stack (s : State) (a : Nat) (bs : List Byte) : (s.storeBytes a bs).stack = s.stack := rfl
@[simp] theorem State.storeBytes_dt (s : State) (a : Nat) (bs : List Byte) : (s.storeBytes a bs).dt = s.dt := rfl
@[simp] theorem State.storeBytes_st (s : State) (a : Nat) (bs : List Byte) : (s.storeBytes a bs).st = s.st := rfl
@[simp] theorem State.storeBytes_fb (s : State) (a : Nat) (bs : List Byte) : (s.storeBytes a bs).fb = s.fb := rfl
@[simp] theorem State.storeBytes_mem (s : State) (a : Nat) (bs : List Byte) : (s.storeBytes a bs).mem = s.mem.writeBytes a bs := rfl
@[simp] theorem State.storeBytes_opcode (s : State) (a : Nat) (bs : List Byte) : (s.storeBytes a bs).opcode = s.opcode := rfl
@[simp] theorem State.storeBytes_halt (s : State) (a : Nat) (bs : List Byte) : (s.storeBytes a bs).halt = s.halt := rfl
@[simp] theorem State.storeBytes_cause (s : State) (a : Nat) (bs : List Byte) : (s.storeBytes a bs).cause = s.cause := rfl

/-! ### setFb -/

@[simp] theorem State.setFb_v (s : State) (fb : Vector Byte Config.fbBytes) : (s.setFb fb).v = s.v := rfl
@[simp] theorem State.setFb_i (s : State) (fb : Vector Byte Config.fbBytes) : (s.setFb fb).i = s.i := rfl
@[simp] theorem State.setFb_pc (s : State) (fb : Vector Byte Config.fbBytes) : (s.setFb fb).pc = s.pc := rfl
@[simp] theorem State.setFb_sp (s : State) (fb : Vector Byte Config.fbBytes) : (s.setFb fb).sp = s.sp := rfl
@[simp] theorem State.setFb_stack (s : State) (fb : Vector Byte Config.fbBytes) : (s.setFb fb).stack = s.stack := rfl
@[simp] theorem State.setFb_dt (s : State) (fb : Vector Byte Config.fbBytes) : (s.setFb fb).dt = s.dt := rfl
@[simp] theorem State.setFb_st (s : State) (fb : Vector Byte Config.fbBytes) : (s.setFb fb).st = s.st := rfl
@[simp] theorem State.setFb_fb (s : State) (fb : Vector Byte Config.fbBytes) : (s.setFb fb).fb = fb := rfl
@[simp] theorem State.setFb_mem (s : State) (fb : Vector Byte Config.fbBytes) : (s.setFb fb).mem = s.mem := rfl
@[simp] theorem State.setFb_opcode (s : State) (fb : Vector Byte Config.fbBytes) : (s.setFb fb).opcode = s.opcode := rfl
@[simp] theorem State.setFb_halt (s : State) (fb : Vector Byte Config.fbBytes) : (s.setFb fb).halt = s.halt := rfl
@[simp] theorem State.setFb_cause (s : State) (fb : Vector Byte Config.fbBytes) : (s.setFb fb).cause = s.cause := rfl

/-! ### setFlag -/

@[simp] theorem State.setFlag_v (s : State) (f : Reg) : (s.setFlag f).v = s.v.set 15 f := rfl
@[simp] theorem State.setFlag_i (s : State) (f : Reg) : (s.setFlag f).i = s.i := rfl
@[simp] theorem State.setFlag_pc (s : State) (f : Reg) : (s.setFlag f).pc = s.pc := rfl
@[simp] theorem State.setFlag_sp (s : State) (f : Reg) : (s.setFlag f).sp = s.sp := rfl
@[simp] theorem State.setFlag_stack (s : State) (f : Reg) : (s.setFlag f).stack = s.stack := rfl
@[simp] theorem State.setFlag_dt (s : State) (f : Reg) : (s.setFlag f).dt = s.dt := rfl
@[simp] theorem State.setFlag_st (s : State) (f : Reg) : (s.setFlag f).st = s.st := rfl
@[simp] theorem State.setFlag_fb (s : State) (f : Reg) : (s.setFlag f).fb = s.fb := rfl
@[simp] theorem State.setFlag_mem (s : State) (f : Reg) : (s.setFlag f).mem = s.mem := rfl
@[simp] theorem State.setFlag_opcode (s : State) (f : Reg) : (s.setFlag f).opcode = s.opcode := rfl
@[simp] theorem State.setFlag_halt (s : State) (f : Reg) : (s.setFlag f).halt = s.halt := rfl
@[simp] theorem State.setFlag_cause (s : State) (f : Reg) : (s.setFlag f).cause = s.cause := rfl

/-! ### raiseFatal -/

@[simp] theorem State.raiseFatal_v (s : State) (c : Cause) : (s.raiseFatal c).v = s.v := rfl
@[simp] theorem State.raiseFatal_i (s : State) (c : Cause) : (s.raiseFatal c).i = s.i := rfl
@[simp] theorem State.raiseFatal_pc (s : State) (c : Cause) : (s.raiseFatal c).pc = s.pc := rfl
@[simp] theorem State.raiseFatal_sp (s : State) (c : Cause) : (s.raiseFatal c).sp = s.sp := rfl
@[simp] theorem State.raiseFatal_stack (s : State) (c : Cause) : (s.raiseFatal c).stack = s.stack := rfl
@[simp] theorem State.raiseFatal_dt (s : State) (c : Cause) : (s.raiseFatal c).dt = s.dt := rfl
@[simp] theorem State.raiseFatal_st (s : State) (c : Cause) : (s.raiseFatal c).st = s.st := rfl
@[simp] theorem State.raiseFatal_fb (s : State) (c : Cause) : (s.raiseFatal c).fb = s.fb := rfl
@[simp] theorem State.raiseFatal_mem (s : State) (c : Cause) : (s.raiseFatal c).mem = s.mem := rfl
@[simp] theorem State.raiseFatal_opcode (s : State) (c : Cause) : (s.raiseFatal c).opcode = s.opcode := rfl
@[simp] theorem State.raiseFatal_halt (s : State) (c : Cause) : (s.raiseFatal c).halt = true := rfl
@[simp] theorem State.raiseFatal_cause (s : State) (c : Cause) : (s.raiseFatal c).cause = c.code := rfl

/-! ### Registers -/

@[simp] theorem State.getV_setV_self (s : State) (x : RegIdx) (b : Reg) : (s.setV x b).getV x = b := by
  simp [State.getV]

@[simp] theorem State.getV_setV_ne (s : State) (x r : RegIdx) (b : Reg) (h : r ≠ x) :
    (s.setV x b).getV r = s.getV r := by
  have : x.val ≠ r.val := fun e => h (Fin.ext e.symm)
  simp [State.getV, Vector.getElem_set_ne, this]

theorem State.getV_setV (s : State) (x r : RegIdx) (b : Reg) :
    (s.setV x b).getV r = if r = x then b else s.getV r := by
  by_cases h : r = x
  · subst h; simp
  · simp [h]

theorem State.getV_setFlag (s : State) (r : RegIdx) (f : Reg) :
    (s.setFlag f).getV r = if r = 15 then f else s.getV r := State.getV_setV s 15 r f

@[simp] theorem State.getV_setFlag_vf (s : State) (f : Reg) : (s.setFlag f).getV 15 = f := State.getV_setV_self s 15 f

@[simp] theorem State.getV_setFlag_ne (s : State) (r : RegIdx) (f : Reg) (h : r ≠ 15) :
    (s.setFlag f).getV r = s.getV r := State.getV_setV_ne s 15 r f h

/-! ### `getV` after updates of other fields -/

@[simp] theorem State.getV_setI (s : State) (a : IndexWord) (r : RegIdx) : (s.setI a).getV r = s.getV r := rfl
@[simp] theorem State.getV_setDt (s : State) (b : Timer) (r : RegIdx) : (s.setDt b).getV r = s.getV r := rfl
@[simp] theorem State.getV_setSt (s : State) (b : Timer) (r : RegIdx) : (s.setSt b).getV r = s.getV r := rfl
@[simp] theorem State.getV_setOpcode (s : State) (w : Word) (r : RegIdx) : (s.setOpcode w).getV r = s.getV r := rfl
@[simp] theorem State.getV_setPc (s : State) (a : PcWord) (r : RegIdx) : (s.setPc a).getV r = s.getV r := rfl
@[simp] theorem State.getV_advance (s : State) (r : RegIdx) : (s.advance).getV r = s.getV r := rfl
@[simp] theorem State.getV_setSp (s : State) (p : Option StackIdx) (r : RegIdx) : (s.setSp p).getV r = s.getV r := rfl
@[simp] theorem State.getV_setStackAt (s : State) (k : StackIdx) (a : StackWord) (r : RegIdx) : (s.setStackAt k a).getV r = s.getV r := rfl
@[simp] theorem State.getV_storeBytes (s : State) (a : Nat) (bs : List Byte) (r : RegIdx) : (s.storeBytes a bs).getV r = s.getV r := rfl
@[simp] theorem State.getV_setFb (s : State) (fb : Vector Byte Config.fbBytes) (r : RegIdx) : (s.setFb fb).getV r = s.getV r := rfl
@[simp] theorem State.getV_raiseFatal (s : State) (e : Cause) (r : RegIdx) : (s.raiseFatal e).getV r = s.getV r := rfl

/-! ### `stackAt` after updates of other fields -/

@[simp] theorem State.stackAt_setV (s : State) (x : RegIdx) (b : Reg) (k : StackIdx) : (s.setV x b).stackAt k = s.stackAt k := rfl
@[simp] theorem State.stackAt_setRegs (s : State) (w : Vector Reg Config.nregs) (k : StackIdx) : (s.setRegs w).stackAt k = s.stackAt k := rfl
@[simp] theorem State.stackAt_setI (s : State) (a : IndexWord) (k : StackIdx) : (s.setI a).stackAt k = s.stackAt k := rfl
@[simp] theorem State.stackAt_setDt (s : State) (b : Timer) (k : StackIdx) : (s.setDt b).stackAt k = s.stackAt k := rfl
@[simp] theorem State.stackAt_setSt (s : State) (b : Timer) (k : StackIdx) : (s.setSt b).stackAt k = s.stackAt k := rfl
@[simp] theorem State.stackAt_setOpcode (s : State) (w : Word) (k : StackIdx) : (s.setOpcode w).stackAt k = s.stackAt k := rfl
@[simp] theorem State.stackAt_setPc (s : State) (a : PcWord) (k : StackIdx) : (s.setPc a).stackAt k = s.stackAt k := rfl
@[simp] theorem State.stackAt_advance (s : State) (k : StackIdx) : (s.advance).stackAt k = s.stackAt k := rfl
@[simp] theorem State.stackAt_setSp (s : State) (p : Option StackIdx) (k : StackIdx) : (s.setSp p).stackAt k = s.stackAt k := rfl
@[simp] theorem State.stackAt_storeBytes (s : State) (a : Nat) (bs : List Byte) (k : StackIdx) : (s.storeBytes a bs).stackAt k = s.stackAt k := rfl
@[simp] theorem State.stackAt_setFb (s : State) (fb : Vector Byte Config.fbBytes) (k : StackIdx) : (s.setFb fb).stackAt k = s.stackAt k := rfl
@[simp] theorem State.stackAt_setFlag (s : State) (f : Reg) (k : StackIdx) : (s.setFlag f).stackAt k = s.stackAt k := rfl
@[simp] theorem State.stackAt_raiseFatal (s : State) (e : Cause) (k : StackIdx) : (s.raiseFatal e).stackAt k = s.stackAt k := rfl

/-! ### `readByte` after updates of other fields -/

@[simp] theorem State.readByte_setV (s : State) (x : RegIdx) (b : Reg) (c : Nat) : (s.setV x b).readByte c = s.readByte c := rfl
@[simp] theorem State.readByte_setRegs (s : State) (w : Vector Reg Config.nregs) (c : Nat) : (s.setRegs w).readByte c = s.readByte c := rfl
@[simp] theorem State.readByte_setI (s : State) (a : IndexWord) (c : Nat) : (s.setI a).readByte c = s.readByte c := rfl
@[simp] theorem State.readByte_setDt (s : State) (b : Timer) (c : Nat) : (s.setDt b).readByte c = s.readByte c := rfl
@[simp] theorem State.readByte_setSt (s : State) (b : Timer) (c : Nat) : (s.setSt b).readByte c = s.readByte c := rfl
@[simp] theorem State.readByte_setOpcode (s : State) (w : Word) (c : Nat) : (s.setOpcode w).readByte c = s.readByte c := rfl
@[simp] theorem State.readByte_setPc (s : State) (a : PcWord) (c : Nat) : (s.setPc a).readByte c = s.readByte c := rfl
@[simp] theorem State.readByte_advance (s : State) (c : Nat) : (s.advance).readByte c = s.readByte c := rfl
@[simp] theorem State.readByte_setSp (s : State) (p : Option StackIdx) (c : Nat) : (s.setSp p).readByte c = s.readByte c := rfl
@[simp] theorem State.readByte_setStackAt (s : State) (k : StackIdx) (a : StackWord) (c : Nat) : (s.setStackAt k a).readByte c = s.readByte c := rfl
@[simp] theorem State.readByte_setFb (s : State) (fb : Vector Byte Config.fbBytes) (c : Nat) : (s.setFb fb).readByte c = s.readByte c := rfl
@[simp] theorem State.readByte_setFlag (s : State) (f : Reg) (c : Nat) : (s.setFlag f).readByte c = s.readByte c := rfl
@[simp] theorem State.readByte_raiseFatal (s : State) (e : Cause) (c : Nat) : (s.raiseFatal e).readByte c = s.readByte c := rfl

/-! ### Stack entries -/

@[simp] theorem State.stackAt_setStackAt_self (s : State) (k : StackIdx) (a : StackWord) : (s.setStackAt k a).stackAt k = a := by
  simp [State.stackAt]

@[simp] theorem State.stackAt_setStackAt_ne (s : State) (k j : StackIdx) (a : StackWord) (h : j ≠ k) :
    (s.setStackAt k a).stackAt j = s.stackAt j := by
  have : k.val ≠ j.val := fun e => h (Fin.ext e.symm)
  simp [State.stackAt, Vector.getElem_set_ne, this]

/-! ### Framebuffer bytes -/

theorem fbByte_fbSet (fb : Vector Byte Config.fbBytes) (k j : Nat) (b : Byte) (hk : k < 256) :
    fbByte (fbSet fb k b) j = if j = k then b else fbByte fb j := by
  have hs : k < Config.fbBytes := hk
  unfold fbByte fbSet
  rw [Vector.getElem?_setIfInBounds]
  by_cases h : k = j
  · subst h; simp [hs]
  · simp [h, Ne.symm h]

/-- Two framebuffers with the same 256 bytes are the same. -/
theorem fb_ext (fb fb' : Vector Byte Config.fbBytes) (h : ∀ k, k < 256 → fbByte fb' k = fbByte fb k) : fb' = fb := by
  apply Vector.ext
  intro k hk
  have := h k hk
  simpa [fbByte, hk] using this

/-- Two states with the same contents of every field are the same. -/
theorem State.ext_fields (s t : State) (hv : t.v = s.v) (hi : t.i = s.i) (hpc : t.pc = s.pc) (hsp : t.sp = s.sp)
    (hstack : t.stack = s.stack) (hdt : t.dt = s.dt) (hst : t.st = s.st) (hfb : t.fb = s.fb) (hmem : t.mem = s.mem)
    (hop : t.opcode = s.opcode) (hh : t.halt = s.halt) (hc : t.cause = s.cause) : t = s := by
  cases s; cases t; simp_all

end Sys2Proof.Machine
end

