-- ==== Sys2Proof/Laws/Ops.lean ====
section
/-! SUPPORT. One lemma per shared operation, saying once what it does: the call stack, the register-range load, the
decimal digits, the flags, the sprite parts, fetch and step. -/

namespace Sys2Proof.Machine

/-! ### Conversions: at the widths of R10 each keeps the value -/

@[simp] theorem regOfByte_eq (b : Byte) : regOfByte b = b := rfl
@[simp] theorem byteOfReg_eq (r : Reg) : byteOfReg r = r := rfl
@[simp] theorem timerOfReg_eq (r : Reg) : timerOfReg r = r := rfl
@[simp] theorem regOfTimer_eq (t : Timer) : regOfTimer t = t := rfl
@[simp] theorem stackOfPc_eq (p : PcWord) : stackOfPc p = p := rfl
@[simp] theorem pcOfStack_eq (a : StackWord) : pcOfStack a = a := rfl

@[simp] theorem pcOfAddress_toNat (nnn : BitVec 12) : (pcOfAddress nnn).toNat = nnn.toNat := by
  have := nnn.isLt
  simp only [pcOfAddress, BitVec.toNat_setWidth]
  omega

@[simp] theorem indexOfAddress_toNat (nnn : BitVec 12) : (indexOfAddress nnn).toNat = nnn.toNat := by
  have := nnn.isLt
  simp only [indexOfAddress, BitVec.toNat_setWidth]
  omega

@[simp] theorem indexOfReg_toNat (r : Reg) : (indexOfReg r).toNat = r.toNat := by
  have := r.isLt
  simp only [indexOfReg, BitVec.toNat_setWidth]
  omega

/-! ### Program counter -/

/-- A skip changes PC alone, to PC + 4 or PC + 2. -/
theorem State.skipIf_eq (s : State) (c : Bool) : s.skipIf c = s.setPc (s.pc + if c then 4 else 2) := by
  cases c
  · rfl
  · simp only [State.skipIf, State.advance, State.setPc, if_true]
    congr 1
    rw [BitVec.add_assoc]
    rfl

/-! ### Call stack -/

theorem State.spInt_of_none (s : State) (h : s.sp = none) : s.spInt = -1 := by simp [State.spInt, h]
theorem State.spInt_of_some (s : State) (k : StackIdx) (h : s.sp = some k) : s.spInt = k.val := by simp [State.spInt, h]

/-- SP is one of the seventeen values of R25. -/
theorem State.spInt_range (s : State) : -1 ≤ s.spInt ∧ s.spInt ≤ 15 := by
  unfold State.spInt
  split
  · omega
  · rename_i k _; have := k.isLt; omega

/-- A push has no slot exactly when SP = 15. -/
theorem slotAbove_eq_none (s : State) : slotAbove s.sp = none ↔ s.spInt = 15 := by
  unfold slotAbove State.spInt
  split
  · simp
  · rename_i k _
    have := k.isLt
    by_cases hk : k.val + 1 < 16
    · simp [hk]; omega
    · simp [hk]; omega

/-- The slot of a push is SP + 1. -/
theorem slotAbove_eq_some (s : State) (k : StackIdx) (h : slotAbove s.sp = some k) : (k.val : Int) = s.spInt + 1 := by
  unfold slotAbove at h
  unfold State.spInt
  split at h
  · cases h; rfl
  · rename_i j _
    by_cases hj : j.val + 1 < 16
    · simp only [hj, dite_true, Option.some.injEq] at h
      subst h; rfl
    · simp [hj] at h

/-- SP after a pop is SP − 1. -/
theorem spInt_setSp_spBelow (s : State) (k : StackIdx) : (s.setSp (spBelow k)).spInt = (k.val : Int) - 1 := by
  unfold spBelow State.spInt State.setSp
  by_cases h : k.val = 0
  · simp [h]
  · simp only [h, if_false]
    omega

/-! ### Memory bounds -/

/-- An address is out of bounds exactly above 4095 (R40). -/
theorem outOfMemory_iff (a : Nat) : outOfMemory a = true ↔ 4095 < a := by
  simp only [outOfMemory, decide_eq_true_eq, Config.memSize]
  omega

theorem outOfMemory_eq_false (a : Nat) : outOfMemory a = false ↔ a ≤ 4095 := by
  rw [← Bool.not_eq_true, outOfMemory_iff, Nat.not_lt]

/-! ### Register ranges and digits -/

/-- The registers `V[0]` to `V[x]`: x + 1 bytes. -/
theorem State.regsUpTo_length (s : State) (x : RegIdx) : (s.regsUpTo x).length = x.val + 1 := by
  have := x.isLt
  simp [State.regsUpTo]

/-- The k-th of them is `V[k]`. -/
theorem State.regsUpTo_getElem (s : State) (x : RegIdx) (k : Nat) (h : k < (s.regsUpTo x).length) :
    (s.regsUpTo x)[k] = s.getV ⟨k, by have := x.isLt; rw [State.regsUpTo_length] at h; omega⟩ := by
  simp [State.regsUpTo, State.getV]

/-- Register k after a load of n registers. -/
theorem loadRegs_getElem (m : Memory) (base : Nat) (v : Vector Reg Config.nregs) (k : Nat) (hk : k < 16) :
    ∀ n, (loadRegs m base v n)[k] = if k < n then m.read (base + k) else v[k] := by
  intro n
  induction n with
  | zero => simp [loadRegs]
  | succ n ih =>
    rw [loadRegs, Vector.getElem_setIfInBounds]
    split
    · rename_i h; subst h; simp
    · rw [ih]
      by_cases h1 : k < n
      · simp [h1, show k < n + 1 by omega]
      · simp [h1, show ¬ k < n + 1 by omega]

theorem bcdDigits_length (b : Reg) : (bcdDigits b).length = 3 := rfl

theorem bcdDigits_toNat (b : Reg) :
    (bcdDigits b).map BitVec.toNat = [b.toNat / 100, b.toNat / 10 % 10, b.toNat % 10] := by
  have := b.isLt
  simp only [bcdDigits, List.map_cons, List.map_nil, BitVec.toNat_ofNat, List.cons.injEq, and_true]
  omega

/-! ### Flags -/

/-- A flag value is 0 or 1. -/
theorem flagByte_toNat (c : Bool) : (flagByte c).toNat = if c then 1 else 0 := by cases c <;> rfl

theorem greaterFlag_toNat (a b : Reg) : (greaterFlag a b).toNat = if a.toNat > b.toNat then 1 else 0 := by
  simp [greaterFlag, flagByte_toNat]

theorem carryFlag_toNat (n : Nat) : (carryFlag n).toNat = if n > 255 then 1 else 0 := by
  simp only [carryFlag, flagByte_toNat, decide_eq_true_eq]
  congr 1

theorem lowBitFlag_toNat (a : Reg) : (lowBitFlag a).toNat = a.toNat % 2 := by
  simp [lowBitFlag, BitVec.toNat_and, Nat.and_one_is_mod]

/-- The collision test fires exactly when a set sprite bit meets a lit pixel (R113). -/
theorem clearsPixel_xor (old part : Byte) : clearsPixel old (old ^^^ part) = (old &&& part != 0) := by
  have : old &&& ~~~(old ^^^ part) = old &&& part := by
    ext i hi
    simp only [BitVec.getElem_and, BitVec.getElem_not, BitVec.getElem_xor]
    cases old[i] <;> cases part[i] <;> rfl
  rw [clearsPixel, this]

/-! ### Sprites -/

/-- The two touched bytes of a row are in the framebuffer and are not the same byte (R111, R116). -/
theorem touched_bounds (px r : Nat) (hp : px < 64) (hr : r < 32) :
    firstTouched px r < 256 ∧ secondTouched px r < 256 ∧ firstTouched px r ≠ secondTouched px r := by
  simp only [firstTouched, secondTouched, Config.rowBytes]
  omega

/-- The checks of `Dxyn` pass exactly when every row has its byte in memory and lies on the screen (R114). -/
theorem drawCheck_eq_none (base px py : Nat) :
    ∀ rows row, drawCheck base px py row rows = none ↔
      rows = 0 ∨ (base + row + rows ≤ 4096 ∧ px < 64 ∧ py + row + rows ≤ 32) := by
  intro rows
  induction rows with
  | zero => intro row; simp [drawCheck]
  | succ rows ih =>
    intro row
    simp only [drawCheck, outOfMemory, decide_eq_true_eq, Config.memSize, Config.fbCols, Config.fbRows]
    split
    · simp; omega
    · split
      · simp; omega
      · rw [ih]; omega

/-! ### Fetch and step -/

theorem State.fetchFails_iff (s : State) : s.fetchFails = true ↔ 4095 ≤ s.pc.toNat := by
  simp only [State.fetchFails, decide_eq_true_eq, Config.memSize]
  omega

theorem State.wordAtPc_toNat (s : State) :
    s.wordAtPc.toNat = 256 * (s.readByte s.pc.toNat).toNat + (s.readByte (s.pc.toNat + 1)).toNat :=
  wordOfBytes_toNat _ _

/-- Everything the fetch and decode part of a step can do. -/
theorem fetchDecode_cases (s : State) :
    (s.halt = true ∧ fetchDecode s = .halted s) ∨
    (s.halt = false ∧ 4095 ≤ s.pc.toNat ∧ fetchDecode s = .fatal (s.raiseFatal .outOfBoundsMemory)) ∨
    (s.halt = false ∧ s.pc.toNat ≤ 4094 ∧ (∃ e, decodeWord s.wordAtPc = .error e) ∧
      fetchDecode s = .invalid (s.setOpcode s.wordAtPc)) ∨
    (s.halt = false ∧ s.pc.toNat ≤ 4094 ∧ ∃ i, decodeWord s.wordAtPc = .ok i ∧
      fetchDecode s = .run i (s.setOpcode s.wordAtPc)) := by
  cases hh : s.halt with
  | true => exact .inl ⟨rfl, by simp [fetchDecode, hh]⟩
  | false =>
    by_cases hf : 4095 ≤ s.pc.toNat
    · exact .inr (.inl ⟨rfl, hf, by simp [fetchDecode, hh, (State.fetchFails_iff s).mpr hf]⟩)
    · have hf' : s.fetchFails = false := by
        cases h : s.fetchFails with
        | false => rfl
        | true => exact absurd ((State.fetchFails_iff s).mp h) hf
      cases hd : decodeWord s.wordAtPc with
      | error e => exact .inr (.inr (.inl ⟨rfl, by omega, ⟨e, rfl⟩, by simp [fetchDecode, hh, hf', hd]⟩))
      | ok i => exact .inr (.inr (.inr ⟨rfl, by omega, i, rfl, by simp [fetchDecode, hh, hf', hd]⟩))

/-- Everything a step can do. -/
theorem step_cases (s : State) :
    (s.halt = true ∧ step s = .next s) ∨
    (s.halt = false ∧ 4095 ≤ s.pc.toNat ∧ step s = .next (s.raiseFatal .outOfBoundsMemory)) ∨
    (s.halt = false ∧ s.pc.toNat ≤ 4094 ∧ (∃ e, decodeWord s.wordAtPc = .error e) ∧
      step s = .next (s.setOpcode s.wordAtPc)) ∨
    (s.halt = false ∧ s.pc.toNat ≤ 4094 ∧ ∃ i, decodeWord s.wordAtPc = .ok i ∧
      step s = exec i (s.setOpcode s.wordAtPc)) := by
  rcases fetchDecode_cases s with ⟨h, e⟩ | ⟨h, hp, e⟩ | ⟨h, hp, hd, e⟩ | ⟨h, hp, i, hd, e⟩
  · exact .inl ⟨h, by simp [step, e]⟩
  · exact .inr (.inl ⟨h, hp, by simp [step, e]⟩)
  · exact .inr (.inr (.inl ⟨h, hp, hd, by simp [step, e]⟩))
  · exact .inr (.inr (.inr ⟨h, hp, i, hd, by simp [step, e]⟩))

end Sys2Proof.Machine
end

