-- ==== Sys2Proof/Laws/Display.lean ====
section
/-! SUPPORT. What the compositor does, byte by byte: one part blended into one byte, one sprite row, and all the rows of
a sprite. -/

namespace Sys2Proof.Machine

/-- Blending a part into byte k changes that byte alone, by XOR. -/
theorem fbByte_blend (fb : Vector Byte Config.fbBytes) (k j : Nat) (part : Byte) (hk : k < 256) :
    fbByte (blend fb k part).1 j = if j = k then fbByte fb j ^^^ part else fbByte fb j := by
  simp only [blend, fbByte_fbSet _ _ _ _ hk]
  split
  · rename_i h; rw [h]
  · rfl

/-- A blend clears a pixel exactly when a set bit of the part meets a lit pixel. -/
theorem blend_hit (fb : Vector Byte Config.fbBytes) (k : Nat) (part : Byte) :
    (blend fb k part).2 = (fbByte fb k &&& part != 0) := clearsPixel_xor _ _

/-- The part of sprite byte b, drawn at column px, that lands in byte column c of its row: the high part in column
px div 8, the low part in the next one modulo 8, nothing elsewhere (R111). -/
def rowPart (px : Nat) (b : Byte) (c : Nat) : Byte :=
  if c = px / 8 then spriteHigh px b else if c = (px / 8 + 1) % 8 then spriteLow px b else 0

/-- One sprite row XORs its parts into its row of bytes and leaves the other bytes alone (R111, R115). -/
theorem fbByte_drawRow (px r : Nat) (b : Byte) (fb : Vector Byte Config.fbBytes) (hp : px < 64) (hr : r < 32) (j : Nat) :
    fbByte (drawRow px r b fb).1 j = if j / 8 = r then fbByte fb j ^^^ rowPart px b (j % 8) else fbByte fb j := by
  obtain ⟨h0, h1, hne⟩ := touched_bounds px r hp hr
  have hf : firstTouched px r = 8 * r + px / 8 := rfl
  have hs : secondTouched px r = 8 * r + (px / 8 + 1) % 8 := rfl
  simp only [drawRow, fbByte_blend _ _ _ _ h0, fbByte_blend _ _ _ _ h1]
  by_cases hj : j / 8 = r
  · rw [if_pos hj, rowPart]
    by_cases hc0 : j % 8 = px / 8
    · rw [if_neg (show ¬ j = secondTouched px r by omega), if_pos (show j = firstTouched px r by omega), if_pos hc0]
    · by_cases hc1 : j % 8 = (px / 8 + 1) % 8
      · rw [if_pos (show j = secondTouched px r by omega), if_neg (show ¬ j = firstTouched px r by omega), if_neg hc0,
          if_pos hc1]
      · rw [if_neg (show ¬ j = secondTouched px r by omega), if_neg (show ¬ j = firstTouched px r by omega),
          if_neg hc0, if_neg hc1, BitVec.ofNat_eq_ofNat, BitVec.xor_zero]
  · rw [if_neg (show ¬ j = secondTouched px r by omega), if_neg (show ¬ j = firstTouched px r by omega), if_neg hj]

/-- A sprite row collides exactly when one of its parts meets a lit pixel of the row it is drawn on (R113, R116). -/
theorem drawRow_hit (px r : Nat) (b : Byte) (fb : Vector Byte Config.fbBytes) (hp : px < 64) (hr : r < 32) :
    (drawRow px r b fb).2 = true ↔
      ∃ c, c < 8 ∧ fbByte fb (8 * r + c) &&& rowPart px b c ≠ 0 := by
  obtain ⟨h0, h1, hne⟩ := touched_bounds px r hp hr
  have hsec : fbByte (blend fb (firstTouched px r) (spriteHigh px b)).1 (secondTouched px r) =
      fbByte fb (secondTouched px r) := by
    rw [fbByte_blend _ _ _ _ h0, if_neg (Ne.symm hne)]
  simp only [drawRow, blend_hit, hsec, Bool.or_eq_true, bne_iff_ne, ne_eq]
  simp only [firstTouched, secondTouched, Config.rowBytes]
  constructor
  · rintro (h | h)
    · exact ⟨px / 8, by omega, by simpa [rowPart] using h⟩
    · refine ⟨(px / 8 + 1) % 8, by omega, ?_⟩
      have : ¬ (px / 8 + 1) % 8 = px / 8 := by omega
      simpa [rowPart, this] using h
  · rintro ⟨c, hc, h⟩
    unfold rowPart at h
    split at h
    · rename_i e; subst e; exact .inl h
    · split at h
      · rename_i e; subst e; exact .inr h
      · exact absurd (by simp) h

/-- All the rows of a sprite: row number k XORs its parts into row py + k, and no other byte changes (R112, R116). -/
theorem fbByte_drawRows (m : Memory) (base px py : Nat) (hp : px < 64) :
    ∀ (rows row : Nat) (fb : Vector Byte Config.fbBytes) (hit : Bool), py + row + rows ≤ 32 → ∀ j,
      fbByte (drawRows m base px py row fb hit rows).1 j =
        if py + row ≤ j / 8 ∧ j / 8 < py + row + rows then
          fbByte fb j ^^^ rowPart px (m.read (base + (j / 8 - py))) (j % 8)
        else fbByte fb j := by
  intro rows
  induction rows with
  | zero => intro row fb hit _ j; rw [if_neg (by omega)]; rfl
  | succ rows ih =>
    intro row fb hit h j
    rw [drawRows, ih _ _ _ (by omega), fbByte_drawRow _ _ _ _ hp (by omega)]
    by_cases h0 : j / 8 = py + row
    · rw [if_neg (by omega), if_pos h0, if_pos (by omega), show j / 8 - py = row by omega]
    · rw [if_neg h0]
      by_cases h1 : py + (row + 1) ≤ j / 8 ∧ j / 8 < py + (row + 1) + rows
      · rw [if_pos h1, if_pos (by omega)]
      · rw [if_neg h1, if_neg (by omega)]

/-- A sprite collides exactly when it did so already or some part of some row meets a pixel that was lit before the
instruction (R113, R116). -/
theorem drawRows_hit (m : Memory) (base px py : Nat) (hp : px < 64) :
    ∀ (rows row : Nat) (fb : Vector Byte Config.fbBytes) (hit : Bool), py + row + rows ≤ 32 →
      ((drawRows m base px py row fb hit rows).2 = true ↔
        hit = true ∨ ∃ k c, row ≤ k ∧ k < row + rows ∧ c < 8 ∧
          fbByte fb (8 * (py + k) + c) &&& rowPart px (m.read (base + k)) c ≠ 0) := by
  intro rows
  induction rows with
  | zero =>
    intro row fb hit _
    simp only [drawRows]
    constructor
    · exact .inl
    · rintro (h | ⟨k, c, h1, h2, _⟩)
      · exact h
      · omega
  | succ rows ih =>
    intro row fb hit h
    rw [drawRows, ih _ _ _ (by omega)]
    simp only [Config.drwVfAccumulates, Bool.true_and, Bool.or_eq_true, drawRow_hit _ _ _ _ hp (show py + row < 32 by omega)]
    have other : ∀ k c, row + 1 ≤ k → k < row + 1 + rows → c < 8 →
        fbByte (drawRow px (py + row) (m.read (base + row)) fb).1 (8 * (py + k) + c) = fbByte fb (8 * (py + k) + c) := by
      intro k c h1 _ hc
      rw [fbByte_drawRow _ _ _ _ hp (by omega), if_neg (by omega)]
    constructor
    · rintro ((h0 | ⟨c, hc, h0⟩) | ⟨k, c, h1, h2, hc, h0⟩)
      · exact .inl h0
      · exact .inr ⟨row, c, by omega, by omega, hc, h0⟩
      · rw [other k c h1 h2 hc] at h0
        exact .inr ⟨k, c, by omega, by omega, hc, h0⟩
    · rintro (h0 | ⟨k, c, h1, h2, hc, h0⟩)
      · exact .inl (.inl h0)
      · by_cases hk : k = row
        · subst hk; exact .inl (.inr ⟨c, hc, h0⟩)
        · refine .inr ⟨k, c, by omega, by omega, hc, ?_⟩
          rw [other k c (by omega) (by omega) hc]; exact h0

/-- The part of a sprite byte, pixel by pixel: column c of the row gets bit 7 − j of the byte when c = (px + j) mod 64,
and nothing when c is none of those columns (R115). -/
theorem rowPart_pixel (px : Nat) (b : Byte) (c : Nat) (hp : px < 64) (hc : c < 64) :
    (rowPart px b (c / 8)).getLsbD (7 - c % 8) =
      (decide ((c + 64 - px) % 64 < 8) && b.getLsbD (7 - (c + 64 - px) % 64)) := by
  have hs : px % 8 < 8 := by omega
  unfold rowPart
  split
  · rename_i h
    rw [spriteHigh, BitVec.getLsbD_ushiftRight]
    by_cases hb : px % 8 ≤ c % 8
    · have e : (c + 64 - px) % 64 = c % 8 - px % 8 := by omega
      rw [e]
      have : decide (c % 8 - px % 8 < 8) = true := by simp; omega
      rw [this, Bool.true_and]
      congr 1; omega
    · have e : ¬ (c + 64 - px) % 64 < 8 := by omega
      simp only [e, decide_false, Bool.false_and]
      apply BitVec.getLsbD_of_ge; omega
  · split
    · rename_i h0 h
      rw [spriteLow, BitVec.getLsbD_shiftLeft]
      by_cases hb : c % 8 < px % 8
      · have e : (c + 64 - px) % 64 = 8 + c % 8 - px % 8 := by omega
        have h1 : decide (7 - c % 8 < 8) = true := by simp; omega
        have h2 : decide (7 - c % 8 < 8 - px % 8) = false := by simp; omega
        have h3 : decide (8 + c % 8 - px % 8 < 8) = true := by simp; omega
        rw [e, h1, h2, h3]
        simp only [Bool.true_and, Bool.not_false]
        congr 1; omega
      · have e : ¬ (c + 64 - px) % 64 < 8 := by omega
        have h2 : decide (7 - c % 8 < 8 - px % 8) = true := by simp; omega
        simp [e, h2]
    · rename_i h0 h1
      have e : ¬ (c + 64 - px) % 64 < 8 := by omega
      simp [e]

end Sys2Proof.Machine
end

