-- ==== Sys2Proof/Laws/PerInstr.lean ====
section
/-! SUPPORT. Laws of instructions as syntax, one lemma per constructor. Family `RowMatch`: the encoding of an
instruction lies in the instruction's own row of the opcode table (30_encoding.md R63): masked, it is the row's
pattern. -/

namespace Sys2Proof.Laws.RowMatch

/-- The encoded word matches the instruction's row. -/
def Statement (i : Instr) : Prop := i.row.matches (encode i) = true

theorem cls : Statement .cls := by unfold Statement; decide
theorem ret : Statement .ret := by unfold Statement; decide

/-- A row that fixes the top nibble only. -/
theorem op_only (i : Instr) (op : Nat) (hm : i.row.mask = 0xF000#16) (hp : i.row.pattern.toNat = 4096 * op)
    (he : (encode i).toNat / 4096 = op) : Statement i := by
  rw [Statement, OpcodeRow.matches_iff, hm, hp, mask_op, he, Nat.mul_comm]

/-- A row of group 8. -/
theorem op_low4 (i : Instr) (x y : RegIdx) (k : Nat) (hk : k < 16) (he : encode i = wordOfNibbles 8 x.val y.val k)
    (hm : i.row.mask = 0xF00F#16) (hp : i.row.pattern.toNat = 4096 * 8 + k) : Statement i := by
  have := x.isLt
  have := y.isLt
  rw [Statement, OpcodeRow.matches_iff, hm, hp, mask_op_low4, he,
    wordOfNibbles_toNat _ _ _ _ (by decide) (by omega) (by omega) hk]
  omega

/-- A row of group F. -/
theorem op_low8 (i : Instr) (x : RegIdx) (k : Byte) (he : encode i = wordXK 15 x k)
    (hm : i.row.mask = 0xF0FF#16) (hp : i.row.pattern.toNat = 4096 * 15 + k.toNat) : Statement i := by
  have := x.isLt
  have := k.isLt
  rw [Statement, OpcodeRow.matches_iff, hm, hp, mask_op_low8, he, wordXK_toNat _ _ _ (by decide)]
  omega

theorem jp (nnn : BitVec 12) : Statement (.jp nnn) := op_only _ 1 rfl rfl (by
  have := nnn.isLt; rw [encode, wordA_toNat _ _ (by decide)]; omega)
theorem call (nnn : BitVec 12) : Statement (.call nnn) := op_only _ 2 rfl rfl (by
  have := nnn.isLt; rw [encode, wordA_toNat _ _ (by decide)]; omega)
theorem ldI (nnn : BitVec 12) : Statement (.ldI nnn) := op_only _ 10 rfl rfl (by
  have := nnn.isLt; rw [encode, wordA_toNat _ _ (by decide)]; omega)
theorem seImm (x : RegIdx) (kk : Byte) : Statement (.seImm x kk) := op_only _ 3 rfl rfl (by
  have := x.isLt; have := kk.isLt; rw [encode, wordXK_toNat _ _ _ (by decide)]; omega)
theorem sneImm (x : RegIdx) (kk : Byte) : Statement (.sneImm x kk) := op_only _ 4 rfl rfl (by
  have := x.isLt; have := kk.isLt; rw [encode, wordXK_toNat _ _ _ (by decide)]; omega)
theorem ldImm (x : RegIdx) (kk : Byte) : Statement (.ldImm x kk) := op_only _ 6 rfl rfl (by
  have := x.isLt; have := kk.isLt; rw [encode, wordXK_toNat _ _ _ (by decide)]; omega)
theorem addImm (x : RegIdx) (kk : Byte) : Statement (.addImm x kk) := op_only _ 7 rfl rfl (by
  have := x.isLt; have := kk.isLt; rw [encode, wordXK_toNat _ _ _ (by decide)]; omega)
theorem seReg (x y : RegIdx) (z : BitVec 4) : Statement (.seReg x y z) := op_only _ 5 rfl rfl (by
  have := x.isLt; have := y.isLt; have := z.isLt
  rw [encode, wordOfNibbles_toNat _ _ _ _ (by decide) (by omega) (by omega) (by omega)]; omega)
theorem sneReg (x y : RegIdx) (z : BitVec 4) : Statement (.sneReg x y z) := op_only _ 9 rfl rfl (by
  have := x.isLt; have := y.isLt; have := z.isLt
  rw [encode, wordOfNibbles_toNat _ _ _ _ (by decide) (by omega) (by omega) (by omega)]; omega)
theorem drw (x y : RegIdx) (n : Fin 16) : Statement (.drw x y n) := op_only _ 13 rfl rfl (by
  have := x.isLt; have := y.isLt; have := n.isLt
  rw [encode, wordOfNibbles_toNat _ _ _ _ (by decide) (by omega) (by omega) (by omega)]; omega)
theorem ldReg (x y : RegIdx) : Statement (.ldReg x y) := op_low4 _ x y 0 (by decide) rfl rfl rfl
theorem orReg (x y : RegIdx) : Statement (.orReg x y) := op_low4 _ x y 1 (by decide) rfl rfl rfl
theorem andReg (x y : RegIdx) : Statement (.andReg x y) := op_low4 _ x y 2 (by decide) rfl rfl rfl
theorem xorReg (x y : RegIdx) : Statement (.xorReg x y) := op_low4 _ x y 3 (by decide) rfl rfl rfl
theorem addReg (x y : RegIdx) : Statement (.addReg x y) := op_low4 _ x y 4 (by decide) rfl rfl rfl
theorem sub (x y : RegIdx) : Statement (.sub x y) := op_low4 _ x y 5 (by decide) rfl rfl rfl
theorem shr (x y : RegIdx) : Statement (.shr x y) := op_low4 _ x y 6 (by decide) rfl rfl rfl
theorem subn (x y : RegIdx) : Statement (.subn x y) := op_low4 _ x y 7 (by decide) rfl rfl rfl
theorem shl (x y : RegIdx) : Statement (.shl x y) := op_low4 _ x y 14 (by decide) rfl rfl rfl
theorem ldVxDt (x : RegIdx) : Statement (.ldVxDt x) := op_low8 _ x 7#8 rfl rfl rfl
theorem ldVxK (x : RegIdx) : Statement (.ldVxK x) := op_low8 _ x 10#8 rfl rfl rfl
theorem ldDtVx (x : RegIdx) : Statement (.ldDtVx x) := op_low8 _ x 21#8 rfl rfl rfl
theorem ldStVx (x : RegIdx) : Statement (.ldStVx x) := op_low8 _ x 24#8 rfl rfl rfl
theorem addI (x : RegIdx) : Statement (.addI x) := op_low8 _ x 30#8 rfl rfl rfl
theorem ldF (x : RegIdx) : Statement (.ldF x) := op_low8 _ x 41#8 rfl rfl rfl
theorem ldB (x : RegIdx) : Statement (.ldB x) := op_low8 _ x 51#8 rfl rfl rfl
theorem ldMemVx (x : RegIdx) : Statement (.ldMemVx x) := op_low8 _ x 85#8 rfl rfl rfl
theorem ldVxMem (x : RegIdx) : Statement (.ldVxMem x) := op_low8 _ x 101#8 rfl rfl rfl

end Sys2Proof.Laws.RowMatch
end

