-- ==== Sys2Proof/Laws/Run.lean ====
section
/-! SUPPORT. What the terms of Safety.lean say about a step and a run: the word fetched, the output `invalid_opcode`, a run
of one step more, and the closed form of the draw checks. -/

namespace Sys2Proof.Machine

/-- A run of no steps. -/
theorem run_zero (s : State) : Host.Core.run core 0 s = .next s := rfl

/-- A run goes on with the state its first step answers. -/
theorem run_succ (s t : State) (k : Nat) (h : step s = .next t) :
    Host.Core.run core (k + 1) s = Host.Core.run core k t := by
  rw [Host.Core.run.eq_2 core s k, show core.step s = .next t from h]

/-- The word at PC is `wordAtPc`. -/
theorem fetchesWord_iff (s : State) (w : Word) : FetchesWord s w.toNat ↔ s.wordAtPc = w := by
  unfold FetchesWord
  rw [← State.wordAtPc_toNat]
  exact ⟨BitVec.eq_of_toNat_eq, fun h => by rw [h]⟩

/-- `invalid_opcode` is asserted exactly when the machine can fetch and the word decodes to nothing (R126). -/
theorem invalidOpcode_iff (s : State) :
    s.invalidOpcode = true ↔ CanFetch s ∧ ∃ e, decodeWord s.wordAtPc = .error e := by
  unfold State.invalidOpcode CanFetch
  rcases fetchDecode_cases s with ⟨h, e⟩ | ⟨h, hp, e⟩ | ⟨h, hp, hd, e⟩ | ⟨h, hp, i, hd, e⟩ <;> rw [e]
  · simp [h]
  · simp [h]; omega
  · simp [h, hp, hd]
  · simp [h, hd]

/-- The draw checks from row `row` on: none when every row is in memory and on the screen; else the first row that is not
decides, memory first (R112, R114). -/
theorem drawCheck_from (base px py seen : Nat) (hs : seen = if px > 63 then 0 else 32 - py) :
    ∀ rows row, drawCheck base px py row rows =
      if row + rows ≤ 4096 - base ∧ row + rows ≤ seen ∨ rows = 0 then none
      else if row < 4096 - base ∧ row < seen then
        (if 4096 - base ≤ seen then some .outOfBoundsMemory else some .outOfBoundsFramebuffer)
      else if row < 4096 - base then some .outOfBoundsFramebuffer else some .outOfBoundsMemory := by
  have off : ∀ row, (px ≥ 64 ∨ py + row ≥ 32) ↔ seen ≤ row := by
    intro row
    split at hs <;> omega
  intro rows
  induction rows with
  | zero => intro row; simp [drawCheck]
  | succ rows ih =>
    intro row
    rw [drawCheck]
    simp only [outOfMemory_iff, Config.fbCols, Config.fbRows, off, ih]
    clear hs off ih
    repeat' split
    all_goals first | rfl | (exfalso; omega)

/-- The checks a `Dxyn` makes, in the closed form of `drawFatalCause`. -/
theorem drawCheck_eq_drawFatalCause (base px py n : Nat) : drawCheck base px py 0 n = drawFatalCause base px py n := by
  rw [drawCheck_from _ _ _ _ rfl]
  unfold drawFatalCause
  simp only [Nat.zero_add]
  by_cases h : n ≤ 4096 - base ∧ n ≤ (if px > 63 then 0 else 32 - py)
  · rw [if_pos h, if_pos (.inl h)]
  · have : n ≠ 0 := by rintro rfl; simp at h
    rw [if_neg h, if_neg (by omega)]
    repeat' split
    all_goals first | rfl | omega

end Sys2Proof.Machine
end

