-- ==== Sys2Proof/Tests/Slice0.lean ====
section
/-! SUPPORT. The model's own tests. The vector named in each comment (S, FL, AL, IX, TM, DR, IV, RS) is the row of
spec/95_test_vectors.md the expected values come from. -/

namespace Sys2Proof.Tests

open Sys2Proof.Machine

/-- The reset state with some general registers set. -/
def regs (l : List (RegIdx × Reg)) : State := l.foldl (fun s c => s.setV c.1 c.2) State.reset

/-- One step with `w` placed where the step fetches; what the test looks at of the next state. -/
def see {α : Type} (w : Nat) (s : State) (look : State → α) : Option α :=
  match step (s.withFetchWord 16 w) with
  | .next t => some (look t)
  | _ => none

/-- The framebuffer bytes that are not zero, with their indices. -/
def lit (s : State) : List (Nat × Byte) :=
  ((List.range 256).map (fun k => (k, fbByte s.fb k))).filter (fun c => c.2 != 0)

/-- HALT, CAUSE and PC. -/
def stop (s : State) : Bool × BitVec 3 × PcWord := (s.halt, s.cause, s.pc)

/-- A state with one byte of the framebuffer set. -/
def withFb (s : State) (k : Nat) (b : Byte) : State := s.setFb (fbSet s.fb k b)

/-! ### Well-formedness: an ill-formed instruction for each check -/

theorem test_wf_refuses_seReg_low_nibble : Instr.wellFormed (.seReg 1 2 0xF) = false := by decide
theorem test_wf_refuses_sneReg_low_nibble : Instr.wellFormed (.sneReg 1 2 0x1) = false := by decide
theorem test_wf_refuses_shr_y : Instr.wellFormed (.shr 4 10) = false := by decide
theorem test_wf_refuses_shl_y : Instr.wellFormed (.shl 4 1) = false := by decide
theorem test_wf_admits_canonical :
    Instr.wellFormed (.seReg 1 2 0) = true ∧ Instr.wellFormed (.shr 4 0) = true ∧ Instr.wellFormed (.drw 1 2 0) = true := by
  decide

/-! ### Decoding: words written out bit by bit from the patterns of R63 -/

theorem test_decode_group0 :
    decodeWord 0b0000_0000_1110_0000 = .ok .cls ∧ decodeWord 0b0000_0000_1110_1110 = .ok .ret ∧
    decodeWord 0b0000_0001_1110_0000 = .error .group0 := by decide
theorem test_decode_addresses :
    decodeWord 0b0001_1010_1011_1100 = .ok (.jp 0xABC) ∧ decodeWord 0b0010_0100_0000_0001 = .ok (.call 0x401) ∧
    decodeWord 0b1010_0010_1111_0000 = .ok (.ldI 0x2F0) := by decide
theorem test_decode_immediates :
    decodeWord 0b0011_0010_0001_0000 = .ok (.seImm 2 0x10) ∧ decodeWord 0b0100_0010_0001_0001 = .ok (.sneImm 2 0x11) ∧
    decodeWord 0b0110_1010_0011_1100 = .ok (.ldImm 10 0x3C) ∧
    decodeWord 0b0111_0011_0010_0000 = .ok (.addImm 3 0x20) := by decide
theorem test_decode_register_skips :
    decodeWord 0b0101_0001_0010_0000 = .ok (.seReg 1 2 0) ∧ decodeWord 0b0101_0001_0010_1111 = .ok (.seReg 1 2 15) ∧
    decodeWord 0b1001_0001_0010_0000 = .ok (.sneReg 1 2 0) := by decide
theorem test_decode_group8_moves :
    decodeWord 0b1000_0001_0010_0000 = .ok (.ldReg 1 2) ∧ decodeWord 0b1000_0001_0010_0001 = .ok (.orReg 1 2) ∧
    decodeWord 0b1000_0001_0010_0010 = .ok (.andReg 1 2) ∧ decodeWord 0b1000_0001_0010_0011 = .ok (.xorReg 1 2) := by
  decide
theorem test_decode_group8_arithmetic :
    decodeWord 0b1000_0001_0010_0100 = .ok (.addReg 1 2) ∧ decodeWord 0b1000_0001_0010_0101 = .ok (.sub 1 2) ∧
    decodeWord 0b1000_0001_0010_0110 = .ok (.shr 1 2) ∧ decodeWord 0b1000_0001_0010_0111 = .ok (.subn 1 2) ∧
    decodeWord 0b1000_0001_0010_1110 = .ok (.shl 1 2) ∧ decodeWord 0b1000_0001_0010_1001 = .error .group8 := by decide
theorem test_decode_draw : decodeWord 0b1101_0001_0010_0101 = .ok (.drw 1 2 5) := by decide
theorem test_decode_groupF_timers :
    decodeWord 0b1111_0101_0000_0111 = .ok (.ldVxDt 5) ∧ decodeWord 0b1111_0101_0000_1010 = .ok (.ldVxK 5) ∧
    decodeWord 0b1111_0101_0001_0101 = .ok (.ldDtVx 5) ∧ decodeWord 0b1111_0101_0001_1000 = .ok (.ldStVx 5) := by decide
theorem test_decode_groupF_memory :
    decodeWord 0b1111_0101_0001_1110 = .ok (.addI 5) ∧ decodeWord 0b1111_0101_0010_1001 = .ok (.ldF 5) ∧
    decodeWord 0b1111_0101_0011_0011 = .ok (.ldB 5) ∧ decodeWord 0b1111_0101_0101_0101 = .ok (.ldMemVx 5) ∧
    decodeWord 0b1111_0101_0110_0101 = .ok (.ldVxMem 5) ∧ decodeWord 0b1111_0000_0111_0101 = .error .groupF := by decide
/-- IV5 to IV7. -/
theorem test_decode_top_nibbles :
    decodeWord 0xB123#16 = .error .topNibble ∧ decodeWord 0xC0FF#16 = .error .topNibble ∧
    decodeWord 0xE19E#16 = .error .topNibble := by decide
/-- R42: the byte at the lower address is the high byte (S9). -/
theorem test_decode_bytes : decode [0x12, 0x34, 0x56] = .ok (.jp 0x234, [0x56]) ∧ decode [0x12] = .error .truncated := by
  decide
theorem test_encode_bytes : encodeBytes (.drw 1 2 5) = [0xD1, 0x25] ∧ encodeBytes (.ldMemVx 4) = [0xF4, 0x55] := by decide

/-! ### Control flow -/

set_option maxRecDepth 100000

/-- FL4. -/
theorem test_jp : see 0x1ABC .reset (·.pc) = some 0x0ABC := by decide
/-- FL8. -/
theorem test_call : see 0x2400 ((State.reset.setPc 0x300).setSp (some 14)) (fun t => (t.spInt, t.stackAt 15, t.pc)) =
    some (15, 0x300, 0x400) := by decide
/-- FL9. -/
theorem test_call_full : see 0x2400 ((State.reset.setPc 0x300).setSp (some 15)) stop = some (true, 2, 0x300) := by decide
/-- FL3. -/
theorem test_ret : see 0x00EE ((State.reset.setSp (some 15)).setStackAt 15 0xABC) (fun t => (t.pc, t.spInt)) =
    some (0xABE, 14) := by decide
/-- FL2. -/
theorem test_ret_empty : see 0x00EE .reset stop = some (true, 3, 0x200) := by decide
/-- FL10, FL11. -/
theorem test_seImm : see 0x3210 (regs [(2, 0x10)]) (·.pc) = some 0x204 ∧ see 0x3211 (regs [(2, 0x10)]) (·.pc) = some 0x202 := by
  decide
/-- FL14, FL15. -/
theorem test_sneImm : see 0x4210 (regs [(2, 0x10)]) (·.pc) = some 0x202 ∧ see 0x4211 (regs [(2, 0x10)]) (·.pc) = some 0x204 := by
  decide
/-- FL17, FL19. -/
theorem test_seReg : see 0x5120 (regs [(1, 7), (2, 8)]) (·.pc) = some 0x202 ∧
    see 0x512F (regs [(1, 7), (2, 7)]) (·.pc) = some 0x204 := by decide
/-- FL20, FL21. -/
theorem test_sneReg : see 0x9120 (regs [(1, 7), (2, 8)]) (·.pc) = some 0x204 ∧
    see 0x9120 (regs [(1, 7), (2, 7)]) (·.pc) = some 0x202 := by decide

/-! ### Arithmetic and logic -/

/-- AL1. -/
theorem test_ldImm : see 0x6A3C .reset (fun t => (t.getV 10, t.pc)) = some (0x3C, 0x202) := by decide
/-- AL4, AL6. -/
theorem test_addImm : see 0x7001 (regs [(0, 0xFF)]) (fun t => (t.getV 0, t.getV 15)) = some (0, 0) ∧
    see 0x7F01 (regs [(15, 0xFF)]) (·.getV 15) = some 0 := by decide
/-- AL7. -/
theorem test_ldReg : see 0x8010 (regs [(1, 0x55)]) (·.getV 0) = some 0x55 := by decide
/-- AL12. -/
theorem test_or : see 0x8011 (regs [(0, 0xF0), (1, 0x0F), (15, 7)]) (fun t => (t.getV 0, t.getV 15)) = some (0xFF, 7) := by decide
/-- AL9. -/
theorem test_and : see 0x8012 (regs [(0, 0xF0), (1, 0x3C)]) (·.getV 0) = some 0x30 := by decide
/-- AL10. -/
theorem test_xor : see 0x8013 (regs [(0, 0xF0), (1, 0x3C)]) (·.getV 0) = some 0xCC := by decide
/-- AL13. -/
theorem test_addReg : see 0x8014 (regs [(0, 0xC8), (1, 0x64)]) (fun t => (t.getV 0, t.getV 15)) = some (0x2C, 1) := by decide
/-- AL19, AL20. -/
theorem test_addReg_vf : see 0x8F14 (regs [(15, 0xF0), (1, 0x20)]) (·.getV 15) = some 0x10 ∧
    see 0x80F4 (regs [(0, 0xFF), (15, 2)]) (fun t => (t.getV 0, t.getV 15)) = some (1, 1) := by decide
/-- AL23, AL26. -/
theorem test_sub : see 0x8015 (regs [(0, 7), (1, 7)]) (fun t => (t.getV 0, t.getV 15)) = some (0, 0) ∧
    see 0x8015 (regs [(0, 0xFF), (1, 0)]) (fun t => (t.getV 0, t.getV 15)) = some (0xFF, 1) := by decide
/-- AL28, AL29. -/
theorem test_sub_vf : see 0x80F5 (regs [(0, 5), (15, 3)]) (fun t => (t.getV 0, t.getV 15)) = some (4, 1) ∧
    see 0x8F15 (regs [(15, 5), (1, 3)]) (·.getV 15) = some 0xFE := by decide
/-- AL35. -/
theorem test_shr : see 0x84A6 (regs [(4, 0x0B), (10, 0x77)]) (fun t => (t.getV 4, t.getV 15, t.getV 10)) =
    some (5, 1, 0x77) := by decide
/-- AL36. -/
theorem test_shr_vf : see 0x8F06 (regs [(15, 0xFF)]) (·.getV 15) = some 0 := by decide
/-- AL37, AL39. -/
theorem test_subn : see 0x8017 (regs [(0, 3), (1, 10)]) (fun t => (t.getV 0, t.getV 15)) = some (7, 1) ∧
    see 0x8017 (regs [(0, 2), (1, 1)]) (fun t => (t.getV 0, t.getV 15)) = some (0xFF, 0) := by decide
/-- AL40, AL41. -/
theorem test_subn_vf : see 0x8F17 (regs [(15, 3), (1, 5)]) (·.getV 15) = some 4 ∧
    see 0x80F7 (regs [(0, 2), (15, 9)]) (fun t => (t.getV 0, t.getV 15)) = some (0xFF, 1) := by decide
/-- AL42, AL43. -/
theorem test_shl : see 0x840E (regs [(4, 0x41)]) (fun t => (t.getV 4, t.getV 15)) = some (0x82, 1) ∧
    see 0x840E (regs [(4, 0x80)]) (fun t => (t.getV 4, t.getV 15)) = some (0, 0) := by decide
/-- AL46. -/
theorem test_shl_vf : see 0x8F0E (regs [(15, 0x81)]) (·.getV 15) = some 2 := by decide

/-! ### Index register and memory -/

/-- IX2. -/
theorem test_ldI : see 0xAFFF (State.reset.setI 0x1234) (·.i) = some 0x0FFF := by decide
/-- IX6. -/
theorem test_addI : see 0xF01E ((regs [(0, 0xFF)]).setI 0xFF80) (fun t => (t.i, t.getV 15)) = some (0x007F, 0) := by decide
/-- IX9. -/
theorem test_ldF : see 0xF029 ((regs [(0, 0x0F)]).setI 0x123) (·.i) = some 75 := by decide
/-- IX10. -/
theorem test_ldF_invalid : see 0xF029 ((regs [(0, 0x10)]).setI 0x123) (fun t => (stop t, t.i)) =
    some ((true, 1, 0x200), 0x123) := by decide
/-- IX16. -/
theorem test_ldB : see 0xF033 ((regs [(0, 0x7B)]).setI 0xFFD) (fun t => [0xFFD, 0xFFE, 0xFFF].map t.readByte) =
    some [1, 2, 3] := by decide
/-- IX17. -/
theorem test_ldB_bound : see 0xF033 ((regs [(0, 0x7B)]).setI 0xFFE) (fun t => (stop t, t.readByte 0xFFE, t.readByte 0xFFF)) =
    some ((true, 4, 0x200), 0, 0) := by decide
/-- IX19. -/
theorem test_ldMemVx : see 0xF255 ((regs [(0, 0x11), (1, 0x22), (2, 0x33), (3, 0x44)]).setI 0x400)
    (fun t => ([0x400, 0x401, 0x402, 0x403].map t.readByte, t.i)) = some ([0x11, 0x22, 0x33, 0], 0x400) := by decide
/-- IX22. -/
theorem test_ldMemVx_bound : see 0xFF55 ((regs [(0, 0xA0)]).setI 0xFF1) (fun t => (stop t, t.readByte 0xFF1)) =
    some ((true, 4, 0x200), 0) := by decide
/-- IX24. -/
theorem test_ldVxMem : see 0xF265 (((regs [(3, 0xEE)]).setI 0x300).storeBytes 0x300 [1, 5, 6, 7])
    (fun t => ([t.getV 0, t.getV 1, t.getV 2, t.getV 3], t.i)) = some ([1, 5, 6, 0xEE], 0x303) := by decide
/-- IX26. -/
theorem test_ldVxMem_bound : see 0xF165 ((regs [(0, 0x11), (1, 0x22)]).setI 0xFFF)
    (fun t => (stop t, t.getV 0, t.getV 1, t.i)) = some ((true, 4, 0x200), 0x11, 0x22, 0xFFF) := by decide

/-! ### Timers and the key placeholder -/

/-- TM2. -/
theorem test_ldVxDt : see 0xFF07 (State.reset.setDt 9) (fun t => (t.getV 15, t.dt)) = some (9, 9) := by decide
/-- TM3. -/
theorem test_ldVxK : see 0xF30A ((regs [(3, 0x77)]).setPc 0x210) (fun t => (t.getV 3, t.pc)) = some (0x77, 0x212) := by decide
/-- TM4. -/
theorem test_ldDtVx : see 0xF115 (regs [(1, 0x3C)]) (fun t => (t.dt, t.st)) = some (0x3C, 0) := by decide
/-- TM5. -/
theorem test_ldStVx : see 0xF118 (regs [(1, 5)]) (fun t => (t.st, t.dt)) = some (5, 0) := by decide

/-! ### Display -/

/-- DR1. -/
theorem test_cls : see 0x00E0 (withFb (regs [(15, 1)]) 5 0xAA) (fun t => (lit t, t.getV 15)) = some ([], 1) := by decide
/-- DR6. -/
theorem test_drw_wraps_columns : see 0xD011 (((regs [(0, 62), (1, 31)]).setI 0x300).storeBytes 0x300 [0xF0])
    (fun t => (lit t, t.getV 15)) = some ([(248, 0xC0), (255, 0x03)], 0) := by decide
/-- DR13: row 0 collides, row 1 does not; the flag is the OR. -/
theorem test_drw_collision : see 0xD012 ((withFb State.reset 0 0x80).setI 0x300 |>.storeBytes 0x300 [0x80, 0x80])
    (fun t => (lit t, t.getV 15)) = some ([(8, 0x80)], 1) := by decide

/-! ### Fetch, unrecognised words, reset and host operations -/

/-- FL25: PC = 4098. -/
theorem test_fetch_bound : (step (State.reset.setPc 0x1002) matches .next _) = true ∧
    fetchDecode (State.reset.setPc 0x1002) = .fatal ((State.reset.setPc 0x1002).raiseFatal .outOfBoundsMemory) := by decide
/-- IV10: only OPCODE changes. -/
theorem test_unrecognised : see 0xF075 .reset id = some ((State.reset.withFetchWord 16 0xF075).setOpcode 0xF075) ∧
    (State.reset.withFetchWord 16 0xF075).invalidOpcode = true := by decide
/-- RS3: the reset memory holds 0x0000 at 0x200. -/
theorem test_reset_step_is_invalid : State.reset.invalidOpcode = true := by decide
/-- RS2. -/
theorem test_load : load [0x12, 0x00] State.reset = .next (State.reset.storeBytes 0x200 [0x12, 0x00]) := rfl
/-- Histories that leave exactly the state `Reset` leaves, after which `load` accepts an image (log 16). -/
theorem test_moments_that_leave_the_reset_state :
    step State.reset = .next State.reset ∧ load [0x00] State.reset = .next State.reset ∧
    lowerDt 0 State.reset = .next State.reset := by
  refine ⟨?_, by simp only [load, ne_eq, not_true_eq_false, if_false]; rfl, rfl⟩
  rcases step_cases State.reset with ⟨h, _⟩ | ⟨_, h, _⟩ | ⟨_, _, _, e⟩ | ⟨_, _, i, h, _⟩
  · cases h
  · exact absurd h (by decide)
  · exact e.trans (by rw [show State.reset.wordAtPc = 0 by decide]; rfl)
  · rw [show State.reset.wordAtPc = 0 by decide] at h; cases h
/-- R134: the liberty holds in a halted state, and HALT and CAUSE stay (R32). -/
theorem test_timer_lowered_while_halted :
    lowerDt 3 ((State.reset.setDt 5).raiseFatal .stackUnderflow) = .next ((State.reset.setDt 3).raiseFatal .stackUnderflow) := rfl
/-- TM7. -/
theorem test_timer_never_raised : lowerDt 6 (State.reset.setDt 5) = .refused .timerRaised := rfl
/-- Writing what an unlisted address reads as removes the entry. -/
theorem test_memory_is_canonical :
    Memory.writeBytes (Memory.write [] 0x300 7) 0x300 [0] = [] ∧ Memory.write [] 0 0xF0 = [] ∧
    Memory.write (Memory.write [] 0x301 1) 0x300 2 = [(0x300, 2), (0x301, 1)] := by decide

/-! ### Witnesses: for every statement with hypotheses, a state and operands that meet all of them together -/

theorem witness_EncodeOfDecodeIsTheWord : decodeWord 0x512F#16 = .ok (.seReg 1 2 15) := by decide
theorem witness_WordIsAnInstructionIffOneRowMatches :
    decodeWord 0x9120#16 = .ok (.sneReg 1 2 0) ∧ decodeWord 0x8009#16 = .error .group8 := by decide

/-- The four boundary words, each where the reset state fetches it. -/
theorem witness_TopNibblesBCEAreInvalid :
    (0xB000 ≤ (0xB000#16).toNat ∧ (0xCFFF#16).toNat ≤ 0xCFFF) ∧ (0xE000 ≤ (0xE000#16).toNat ∧ (0xEFFF#16).toNat ≤ 0xEFFF) ∧
    CanFetch (State.reset.withFetchWord 16 0xB000) ∧ FetchesWord (State.reset.withFetchWord 16 0xB000) 0xB000 ∧
    CanFetch (State.reset.withFetchWord 16 0xEFFF) ∧ FetchesWord (State.reset.withFetchWord 16 0xEFFF) 0xEFFF := by
  refine ⟨by decide, by decide, ⟨rfl, by decide⟩, by unfold FetchesWord; decide, ⟨rfl, by decide⟩, by unfold FetchesWord; decide⟩
theorem witness_GroupHolesAreUnrecognised :
    (0x0FFF#16).toNat < 0x1000 ∧ (0x8000#16).toNat / 0x1000 = 0x8 ∧ (0x8FFF#16).toNat / 0x1000 = 0x8 ∧
    (0xF000#16).toNat / 0x1000 = 0xF ∧ (0xFFFF#16).toNat / 0x1000 = 0xF := by decide

/-- PC at 4094 and at 4095. -/
theorem witness_FetchReadsTwoBytesBigEndian :
    (State.reset.setPc 4094).halt = false ∧ (State.reset.setPc 4094).pc.toNat ≤ 4094 ∧
    (State.reset.setPc 4095).halt = false ∧ 4095 ≤ (State.reset.setPc 4095).pc.toNat := by decide
theorem witness_StepRunsTheDecodedInstruction :
    CanFetch (State.reset.withFetchWord 16 0x512F) ∧
    FetchesWord (State.reset.withFetchWord 16 0x512F) (0x512F#16).toNat ∧
    decodeWord 0x512F#16 = .ok (.seReg 1 2 15) := ⟨⟨rfl, by decide⟩, by unfold FetchesWord; decide, by decide⟩
theorem witness_UnrecognisedWordIsReportedAndChangesNothing :
    (State.reset.withFetchWord 16 0xF1FF).invalidOpcode = true := by decide
theorem witness_UnrecognisedWordRepeatsForEver :
    ((State.reset.setPc 4094).withFetchWord 16 0x00E1).invalidOpcode = true := by decide
/-- A halted state, and the timer writes that change a timer of it. -/
theorem witness_HaltedMachineStaysHalted :
    let s := ((State.reset.setDt 5).setSt 5).raiseFatal .stackUnderflow
    s.halt = true ∧ (∃ t, lowerDt 0 s = .next t ∧ t.dt = 0) ∧ (∃ t, lowerSt 5 s = .next t ∧ t.st = 5) :=
  ⟨by decide, ⟨_, rfl, rfl⟩, ⟨_, rfl, rfl⟩⟩
/-- A fatal fetch at PC = 4095, and a fatal instruction at PC = 4094. -/
theorem witness_FatalStepChangesOnlyHaltAndCause :
    (State.reset.setPc 4095).halt = false ∧ 4095 ≤ (State.reset.setPc 4095).pc.toNat ∧
    (∃ t, step (State.reset.setPc 4095) = .next t ∧ t.halt = true) ∧
    (((State.reset.setPc 4094).withFetchWord 16 0x00EE).pc.toNat ≤ 4094) ∧
    (∃ t, step ((State.reset.setPc 4094).withFetchWord 16 0x00EE) = .next t ∧ t.halt = true) :=
  ⟨rfl, by decide, ⟨_, rfl, rfl⟩, by decide, ⟨_, rfl, by decide⟩⟩
/-- Every cause of R120, each at the first operand that meets it, and none just before. -/
theorem witness_FatalExactlyInTheListedCases :
    State.reset.halt = false ∧
    fatalCause (.ldF 0) (regs [(0, 16)]) = some .invalidDigit ∧ fatalCause (.ldF 0) (regs [(0, 15)]) = none ∧
    fatalCause (.call 0) (State.reset.setSp (some 15)) = some .stackOverflow ∧
    fatalCause (.call 0) (State.reset.setSp (some 14)) = none ∧
    fatalCause .ret State.reset = some .stackUnderflow ∧ fatalCause .ret (State.reset.setSp (some 0)) = none ∧
    fatalCause (.ldB 0) (State.reset.setI 4094) = some .outOfBoundsMemory ∧
    fatalCause (.ldMemVx 15) (State.reset.setI 4081) = some .outOfBoundsMemory ∧
    fatalCause (.ldVxMem 15) (State.reset.setI 4080) = none ∧
    fatalCause (.drw 0 1 1) (regs [(0, 63), (1, 32)]) = some .outOfBoundsFramebuffer ∧
    fatalCause (.drw 0 1 1) (regs [(0, 64), (1, 31)]) = some .outOfBoundsFramebuffer ∧
    fatalCause (.drw 0 1 1) (regs [(0, 63), (1, 31)]) = none ∧
    fatalCause (.drw 0 1 1) ((regs [(0, 64)]).setI 4096) = some .outOfBoundsMemory := by decide
/-- A call at the last address that can be fetched, into the last stack entry. -/
theorem witness_EveryStepKeepsTheInvariant :
    Inv (((State.reset.setPc 4094).setSp (some 14)).withFetchWord 16 0x2FFF) ∧
    ∃ t, step (((State.reset.setPc 4094).setSp (some 14)).withFetchWord 16 0x2FFF) = .next t :=
  ⟨⟨by decide, by decide, by decide, fun _ => rfl, fun h => absurd h (by decide)⟩, ⟨_, rfl⟩⟩
theorem witness_ReachableStatesAreInRange : Reachable (State.reset.storeBytes 0x200 [0x12, 0x00]) :=
  .launch [0x12, 0x00] _ rfl
theorem witness_MemoryThatReadsAlikeIsEqual :
    Memory.wf [(0, 0), (4095, 1)] = true ∧ Memory.wf (Memory.write (Memory.write [] 4095 1) 0 0) = true ∧
    ∀ a, Memory.read [(0, 0), (4095, 1)] a = Memory.read (Memory.write (Memory.write [] 4095 1) 0 0) a := by
  have h : Memory.write (Memory.write [] 4095 1) 0 0 = [(0, 0), (4095, 1)] := by decide
  rw [h]
  exact ⟨by decide, by decide, fun _ => rfl⟩
/-- RS4, RS5: images of 3584 and 3585 bytes; and a state that is not the one `Reset` leaves. -/
theorem witness_LoadCopiesTheImage :
    (List.replicate 3584 (0xAA : Byte)).length ≤ 3584 ∧ 3584 < (List.replicate 3585 (0xAA : Byte)).length ∧
    State.reset.setPc 0x202 ≠ State.reset := ⟨by simp, by simp, by decide⟩
theorem witness_HostTimerWriteOnlyLowers :
    (5 : Byte).toNat ≤ (State.reset.setDt 5).dt.toNat ∧
    (State.reset.setDt 5).dt.toNat < (6 : Byte).toNat ∧ (0 : Byte).toNat ≤ State.reset.st.toNat ∧
    State.reset.st.toNat < (1 : Byte).toNat := by decide
theorem witness_PlacedWordRunsNext :
    CanFetch (State.reset.setPc 4094) ∧ 0xFF65 < 65536 ∧ decodeTableWord 16 0xFF65 = some (.ldVxMem 15) :=
  ⟨⟨rfl, by decide⟩, by decide, by decide⟩
/-- A return to the last call address, and a fatal return. -/
theorem witness_PcAfterEachInstruction :
    CanFetch ((State.reset.setSp (some 15)).setStackAt 15 4094) ∧
    (∀ k, (((State.reset.setSp (some 15)).setStackAt 15 4094).stackAt k).toNat ≤ 4094) ∧
    (fatalCause .ret ((State.reset.setSp (some 15)).setStackAt 15 4094)).isSome = false ∧
    ((15 : Fin 16).val : Int) = ((State.reset.setSp (some 15)).setStackAt 15 4094).spInt ∧
    CanFetch State.reset ∧ (fatalCause .ret State.reset).isSome = true ∧
    State.reset.invalidOpcode = true ∧ (State.reset.setPc 4095).halt = false ∧ 4095 ≤ (State.reset.setPc 4095).pc.toNat :=
  ⟨⟨rfl, by decide⟩, by decide, by decide, rfl, ⟨rfl, by decide⟩, by decide, by decide, rfl, by decide⟩
/-- The last PC each clause admits: 4092 for F155 and F055, 4078 for FF55, 4091 for Fx33. -/
theorem witness_StoredWordIsFetchedNext_fx55 :
    (∀ c ∈ [(4092, 1), (4092, 0), (4078, 15)],
      let s := ((State.reset.setPc (BitVec.ofNat 16 c.1)).setI (BitVec.ofNat 16 (c.1 + 2))).withFetchWord 16 (0xF055 + 0x100 * c.2)
      s.halt = false ∧ s.pc.toNat ≤ 4094 ∧ s.wordAtPc.toNat = 0xF055 + 0x100 * c.2 ∧ s.i.toNat = s.pc.toNat + 2 ∧
        s.pc.toNat + 3 ≤ 4095 ∧ s.pc.toNat + 2 + c.2 ≤ 4095) := by decide
theorem witness_StoredWordIsFetchedNext_fx33 :
    let s := ((State.reset.setPc 4091).setI 4093).withFetchWord 16 0xFF33
    CanFetch s ∧ FetchesWord s (0xF033 + 0x100 * 15) ∧ s.i.toNat = s.pc.toNat + 2 ∧ s.pc.toNat + 3 ≤ 4095 ∧
      s.pc.toNat + 4 ≤ 4095 :=
  ⟨⟨rfl, by decide⟩, by unfold FetchesWord; decide, by decide, by decide, by decide⟩
theorem witness_RestingStateStays : Resting ((State.reset.setPc 4094).withFetchWord 16 0x1FFE) :=
  ⟨⟨rfl, by decide⟩, by unfold FetchesWord; decide⟩
theorem witness_CallPushesItsOwnAddress :
    (State.reset.setSp (some 15)).spInt = 15 ∧ (State.reset.setSp (some 14)).spInt ≠ 15 ∧ State.reset.spInt ≠ 15 := by decide
theorem witness_ReturnGoesPastTheCall :
    State.reset.spInt = -1 ∧ (State.reset.setSp (some 0)).spInt ≠ -1 ∧
    ((0 : Fin 16).val : Int) = (State.reset.setSp (some 0)).spInt ∧
    ((15 : Fin 16).val : Int) = (State.reset.setSp (some 15)).spInt := by decide
theorem witness_ReturnMatchesCall : (State.reset.setSp (some 14)).spInt ≠ 15 ∧ State.reset.spInt ≠ 15 := by decide
theorem witness_GlyphAddressOfADigit :
    15 < ((regs [(0, 16)]).getV 0).toNat ∧ ((regs [(0, 15)]).getV 0).toNat ≤ 15 := by decide
theorem witness_BcdStoresThreeDigits :
    4095 < (State.reset.setI 4094).i.toNat + 2 ∧ (State.reset.setI 4093).i.toNat + 2 ≤ 4095 := by decide
theorem witness_StoreRegistersToMemory :
    4095 < (State.reset.setI 4081).i.toNat + (15 : Fin 16).val ∧
    (State.reset.setI 4080).i.toNat + (15 : Fin 16).val ≤ 4095 := by decide
theorem witness_LoadRegistersFromMemory :
    4095 < (State.reset.setI 4096).i.toNat + (0 : Fin 16).val ∧
    (State.reset.setI 4095).i.toNat + (0 : Fin 16).val ≤ 4095 := by decide
/-- Steps that change DT and ST. -/
theorem witness_TimersChangeOnlyByTheirInstruction :
    (∃ t, step ((regs [(1, 0x3C)]).withFetchWord 16 0xF115) = .next t ∧
      t.dt ≠ ((regs [(1, 0x3C)]).withFetchWord 16 0xF115).dt) ∧
    (∃ t, step ((regs [(1, 5)]).withFetchWord 16 0xF118) = .next t ∧
      t.st ≠ ((regs [(1, 5)]).withFetchWord 16 0xF118).st) :=
  ⟨⟨_, rfl, by decide⟩, ⟨_, rfl, by decide⟩⟩
/-- The last position and the last memory address a sprite of one row can have, and n = 0. -/
theorem witness_DrawXorsTheSpriteIntoThePixels :
    (((regs [(0, 63), (1, 31)]).setI 4095).i.toNat + (1 : Fin 16).val ≤ 4096 ∧
      (((regs [(0, 63), (1, 31)]).setI 4095).getV 0).toNat ≤ 63 ∧
      (((regs [(0, 63), (1, 31)]).setI 4095).getV 1).toNat + (1 : Fin 16).val ≤ 32) ∧ (0 : Fin 16).val = 0 := by decide
/-- Column 62, row 31, sprite byte F0: a lit pixel under one of its bits, and a blank screen. -/
theorem witness_DrawReportsCollision :
    ((regs [(0, 62), (1, 31)]).i.toNat + 1 ≤ 4096 ∧ ((regs [(0, 62), (1, 31)]).getV 0).toNat ≤ 63 ∧
      ((regs [(0, 62), (1, 31)]).getV 1).toNat + 1 ≤ 32) ∧
    ((State.reset.readByte 0).getLsbD (7 - 3) = true ∧
      fbPixel (withFb (regs [(0, 62), (1, 31)]) 248 0x40).fb ((62 + 3) % 64) (31 + 0) = true) ∧
    (∀ j, j < 8 → fbPixel State.reset.fb ((62 + j) % 64) 31 = false) := by decide
/-- The clauses of the register instructions: a destination that is VF, one that is not, and a register that is neither. -/
theorem witness_AddRegistersReportsCarry : (0 : RegIdx) ≠ 15 ∧ (14 : RegIdx) ≠ 0 ∧ (14 : RegIdx) ≠ 15 := by decide
theorem witness_SubReportsStrictlyGreater : (0 : RegIdx) ≠ 15 ∧ (14 : RegIdx) ≠ 0 ∧ (14 : RegIdx) ≠ 15 := by decide
theorem witness_SubnReportsStrictlyGreater : (14 : RegIdx) ≠ 15 ∧ (0 : RegIdx) ≠ 14 ∧ (0 : RegIdx) ≠ 15 := by decide
theorem witness_ShiftRightReportsBitZero : (0 : RegIdx) ≠ 15 ∧ (15 : RegIdx) = 15 ∧ (14 : RegIdx) ≠ 15 := by decide
theorem witness_ShiftLeftReportsBitZero : (14 : RegIdx) ≠ 15 ∧ (15 : RegIdx) = 15 ∧ (0 : RegIdx) ≠ 15 := by decide
theorem witness_LoadImmediateWritesVx : (14 : RegIdx) ≠ 15 := by decide
theorem witness_AddImmediateWrapsWithoutFlag : (15 : RegIdx) ≠ 0 := by decide
theorem witness_MoveAndLogicAreBitwise : 7 < 8 ∧ (15 : RegIdx) ≠ 0 := by decide
theorem witness_TimerInstructionsCopyOneByte : (15 : RegIdx) ≠ 0 := by decide
theorem witness_EachInstructionWritesOnlyItsOwnState :
    (14 : RegIdx) ∉ writtenRegs (.addReg 0 1) ∧ (15 : RegIdx) ∉ writtenRegs (.ldVxMem 14) ∧
    fatalCause (.addReg 0 1) State.reset = none ∧ Piece.i ∉ [.v, .pc] ++ writtenPieces (.addReg 0 1) := by decide
theorem witness_ResetLeavesTheStatedValues : 79 < 80 ∧ 80 ≤ 80 := by decide
theorem witness_ReadFbIsRowMajor : 255 < 256 ∧ 63 < 64 ∧ 31 < 32 := by decide
theorem witness_ClearZeroesTheFramebuffer : 255 < 256 := by decide
theorem witness_SpriteRowTouchesTwoBytes : (63 < 64 ∧ 31 < 32) ∧ (0 < 64 ∧ 0 < 32) := by decide
/-- DR25, DR26: a draw that is fatal on the screen, one that is fatal in memory, and one that is not fatal. -/
theorem witness_DrawOutOfBoundsIsFatal :
    ((regs [(1, 31)]).setI 0xFFE).halt = false ∧
    see 0xD013 ((regs [(1, 31)]).setI 0xFFE) stop = some (true, 5, 0x200) ∧
    see 0xD011 ((regs [(0, 64)]).setI 0x1000) stop = some (true, 4, 0x200) ∧
    see 0xD011 ((regs [(0, 63), (1, 31)]).setI 0xFFF) stop = some (false, 0, 0x202) := by decide
/-- DR2, DR3: digit 0 at the origin lights the pixel at column 0, row 0; V0 keeps its value. -/
theorem witness_DrawingTwiceRestoresTheFramebuffer :
    State.reset.i.toNat + 5 ≤ 4096 ∧ (State.reset.getV 0).toNat ≤ 63 ∧ (State.reset.getV 0).toNat + 5 ≤ 32 ∧
    ∃ t, exec (.drw 0 0 5) State.reset = .next t ∧ t.getV 0 = State.reset.getV 0 ∧
      fbPixel State.reset.fb 0 0 = false ∧ fbPixel t.fb 0 0 = true :=
  ⟨by decide, by decide, by decide, _, rfl, by decide, by decide, by decide⟩

end Sys2Proof.Tests
end

section
/-! PROOF. Control flow (40_flow.md): the jump and the two skips on an immediate. Each statement is a word that decodes
to the instruction, the next state `exec` answers, the PC of that state, and its frame. -/

namespace Sys2Proof.Machine

/-! ### Frames of PC updates -/

/-- Writing PC leaves every other piece of state alone. -/
theorem State.setPc_unchangedBut (s : State) (a : PcWord) : UnchangedBut [.pc] s (s.setPc a) := by
  intro p hp
  cases p
  case pc => simp at hp
  all_goals simp [Piece.Same]

/-- A skip is two bytes further than the base increment exactly when its condition holds (R22, R80). -/
theorem State.skipIf_pc (s : State) (c : Bool) : (s.skipIf c).pc = if c then s.pc + 4#16 else s.pc + 2#16 := by
  rw [State.skipIf_eq, State.setPc_pc]
  cases c <;> rfl

/-- A skip, taken or not, changes PC alone. -/
theorem State.skipIf_unchangedBut (s : State) (c : Bool) : UnchangedBut [.pc] s (s.skipIf c) := by
  rw [State.skipIf_eq]
  exact s.setPc_unchangedBut _

/-! ### Words of the jump and of the skips on an immediate (R63) -/

theorem decodeWord_wordA_jp (nnn : BitVec 12) : decodeWord (wordA 0x1 nnn) = .ok (.jp nnn) := by
  obtain ⟨hop, hnnn⟩ := fields_of_nnn _ 1 nnn (wordA_toNat 1 nnn (by decide))
  simp only [decodeWord_of_op _ 1 hop, hnnn]

theorem decodeWord_wordXK_seImm (x : RegIdx) (kk : Byte) : decodeWord (wordXK 0x3 x kk) = .ok (.seImm x kk) := by
  obtain ⟨hop, hx, hkk⟩ := fields_of_xk _ 3 x kk (wordXK_toNat 3 x kk (by decide))
  simp only [decodeWord_of_op _ 3 hop, hx, hkk]

theorem decodeWord_wordXK_sneImm (x : RegIdx) (kk : Byte) : decodeWord (wordXK 0x4 x kk) = .ok (.sneImm x kk) := by
  obtain ⟨hop, hx, hkk⟩ := fields_of_xk _ 4 x kk (wordXK_toNat 4 x kk (by decide))
  simp only [decodeWord_of_op _ 4 hop, hx, hkk]

/-! ### What `exec` answers -/

theorem exec_jp (nnn : BitVec 12) (s : State) : exec (.jp nnn) s = .next (s.setPc (pcOfAddress nnn)) := rfl

/-- The comparison is of the register with the immediate byte itself: the register's width is the byte's (R10). -/
theorem exec_seImm (x : RegIdx) (kk : Byte) (s : State) : exec (.seImm x kk) s = .next (s.skipIf (s.getV x == kk)) := rfl

theorem exec_sneImm (x : RegIdx) (kk : Byte) (s : State) : exec (.sneImm x kk) s = .next (s.skipIf (s.getV x != kk)) := rfl

/-! ### The obligations -/

/-- Settles O28: the target is the address zero-extended, and a write of PC has PC as its frame. -/
theorem jumpSetsPc : Obligations.JumpSetsPc := fun nnn s =>
  ⟨decodeWord_wordA_jp nnn, _, exec_jp nnn s, pcOfAddress_toNat nnn, s.setPc_unchangedBut _⟩

/-- Settles O32: a skip whose condition is that the register and the immediate are the same number. -/
theorem skipIfEqualImmediate : Obligations.SkipIfEqualImmediate := by
  intro x kk s
  refine ⟨decodeWord_wordXK_seImm x kk, _, exec_seImm x kk s, ?_, s.skipIf_unchangedBut _⟩
  rw [State.skipIf_pc]
  simp only [beq_iff_eq, BitVec.toNat_inj]

/-- Settles O33: a skip whose condition is that the register and the immediate differ, so the two branches of O32 change
places. -/
theorem skipIfNotEqualImmediate : Obligations.SkipIfNotEqualImmediate := by
  intro x kk s
  refine ⟨decodeWord_wordXK_sneImm x kk, _, exec_sneImm x kk s, ?_, s.skipIf_unchangedBut _⟩
  rw [State.skipIf_pc]
  simp only [bne_iff_ne, BitVec.toNat_inj, ite_not]

end Sys2Proof.Machine
end

section
/-! PROOF. Register load, add of an immediate, and the bitwise operations (41_alu.md R84 to R89). All six write one
register and advance, so their clauses about the other registers, PC and the frame are one lemma
(`exec_next_of_setV_advance`); each statement adds its encoding and the value it writes. -/

namespace Sys2Proof.Machine

/-! ### A register write followed by the base increment -/

/-- Writing a register and advancing leaves every piece of state but V and PC alone. -/
theorem State.setV_advance_unchangedBut (s : State) (x : RegIdx) (b : Reg) :
    UnchangedBut [.v, .pc] s (s.setV x b).advance := by
  intro p hp
  cases p
  case v | pc => simp at hp
  all_goals simp [Piece.Same]

/-- An instruction whose answer is one register write and the base increment (R22) changes that register and PC alone:
VF too keeps its value unless it is the destination (R83). -/
theorem exec_next_of_setV_advance {i : Instr} {s : State} {x : RegIdx} {b : Reg}
    (h : exec i s = .next (s.setV x b).advance) :
    ∃ t, exec i s = .next t ∧ t.getV x = b ∧ (∀ r, r ≠ x → t.getV r = s.getV r) ∧ t.pc = s.pc + 2#16 ∧
      UnchangedBut [.v, .pc] s t := by
  refine ⟨_, h, ?_, ?_, rfl, s.setV_advance_unchangedBut x b⟩
  · rw [State.getV_advance, State.getV_setV_self]
  · intro r hr
    rw [State.getV_advance, State.getV_setV_ne s x r b hr]

/-! ### Words of 6xkk, 7xkk and group 8 (R63, R65) -/

theorem decodeWord_wordXK_ldImm (x : RegIdx) (kk : Byte) : decodeWord (wordXK 0x6 x kk) = .ok (.ldImm x kk) := by
  obtain ⟨hop, hx, hkk⟩ := fields_of_xk _ 6 x kk (wordXK_toNat 6 x kk (by decide))
  simp only [decodeWord_of_op _ 6 hop, hx, hkk]

theorem decodeWord_wordXK_addImm (x : RegIdx) (kk : Byte) : decodeWord (wordXK 0x7 x kk) = .ok (.addImm x kk) := by
  obtain ⟨hop, hx, hkk⟩ := fields_of_xk _ 7 x kk (wordXK_toNat 7 x kk (by decide))
  simp only [decodeWord_of_op _ 7 hop, hx, hkk]

/-- The secondary dispatch of group 8 (R65): the low nibble k chooses the instruction, x and y are its operands. -/
theorem decodeWord_8xyk (x y : RegIdx) (k : Nat) : k < 16 →
    decodeWord (BitVec.ofNat 16 (0x8000 + k + 0x100 * x.val + 0x10 * y.val)) = (match k with
      | 0x0 => .ok (.ldReg x y)
      | 0x1 => .ok (.orReg x y)
      | 0x2 => .ok (.andReg x y)
      | 0x3 => .ok (.xorReg x y)
      | 0x4 => .ok (.addReg x y)
      | 0x5 => .ok (.sub x y)
      | 0x6 => .ok (.shr x y)
      | 0x7 => .ok (.subn x y)
      | 0xE => .ok (.shl x y)
      | _ => .error .group8) := by
  intro hk
  have hw : (BitVec.ofNat 16 (0x8000 + k + 0x100 * x.val + 0x10 * y.val)).toNat =
      4096 * 8 + 256 * x.val + 16 * y.val + k := by
    have := x.isLt
    have := y.isLt
    rw [BitVec.toNat_ofNat]
    omega
  obtain ⟨hop, hx, hy, hn⟩ := fields_of_xyn _ 8 x y (BitVec.ofNatLT (w := 4) k hk) hw
  rw [decodeWord_of_op _ 8 hop]
  simp only [decodeGroup8, hx, hy, hn, BitVec.toNat_ofNatLT] <;> rfl

/-! ### What `exec` answers -/

theorem exec_ldImm (x : RegIdx) (kk : Byte) (s : State) : exec (.ldImm x kk) s = .next (s.setV x kk).advance := rfl

theorem exec_addImm (x : RegIdx) (kk : Byte) (s : State) :
    exec (.addImm x kk) s = .next (s.setV x (s.getV x + kk)).advance := rfl

theorem exec_ldReg (x y : RegIdx) (s : State) : exec (.ldReg x y) s = .next (s.setV x (s.getV y)).advance := rfl

theorem exec_orReg (x y : RegIdx) (s : State) :
    exec (.orReg x y) s = .next (s.setV x (s.getV x ||| s.getV y)).advance := rfl

theorem exec_andReg (x y : RegIdx) (s : State) :
    exec (.andReg x y) s = .next (s.setV x (s.getV x &&& s.getV y)).advance := rfl

theorem exec_xorReg (x y : RegIdx) (s : State) :
    exec (.xorReg x y) s = .next (s.setV x (s.getV x ^^^ s.getV y)).advance := rfl

/-! ### The obligations -/

/-- Settles O35: the register written holds the immediate itself. -/
theorem loadImmediateWritesVx : Obligations.LoadImmediateWritesVx := fun x kk s =>
  ⟨decodeWord_wordXK_ldImm x kk, exec_next_of_setV_advance (exec_ldImm x kk s)⟩

/-- Settles O36: the sum of two bytes, as a number, is the exact sum modulo 256. -/
theorem addImmediateWrapsWithoutFlag : Obligations.AddImmediateWrapsWithoutFlag := by
  intro x kk s
  obtain ⟨t, hexec, hvx, hframe⟩ := exec_next_of_setV_advance (exec_addImm x kk s)
  exact ⟨decodeWord_wordXK_addImm x kk, t, hexec, by rw [hvx, BitVec.toNat_add], hframe⟩

/-- Settles O37: each operation is the word's own, and bit j of its result is that operation on the two bits j. -/
theorem moveAndLogicAreBitwise : Obligations.MoveAndLogicAreBitwise := by
  intro x y s
  refine ⟨⟨decodeWord_8xyk x y 0 (by decide), exec_next_of_setV_advance (exec_ldReg x y s)⟩,
    ⟨decodeWord_8xyk x y 1 (by decide), ?_⟩, ⟨decodeWord_8xyk x y 2 (by decide), ?_⟩,
    ⟨decodeWord_8xyk x y 3 (by decide), ?_⟩⟩
  · obtain ⟨t, hexec, hvx, hframe⟩ := exec_next_of_setV_advance (exec_orReg x y s)
    exact ⟨t, hexec, fun j _ => by rw [hvx, BitVec.getLsbD_or], hframe⟩
  · obtain ⟨t, hexec, hvx, hframe⟩ := exec_next_of_setV_advance (exec_andReg x y s)
    exact ⟨t, hexec, fun j _ => by rw [hvx, BitVec.getLsbD_and], hframe⟩
  · obtain ⟨t, hexec, hvx, hframe⟩ := exec_next_of_setV_advance (exec_xorReg x y s)
    exact ⟨t, hexec, fun j _ => by rw [hvx, BitVec.getLsbD_xor], hframe⟩

end Sys2Proof.Machine
end

section
/-! PROOF. Index register (42_index_memory.md R98): the load of I with an immediate address. -/

namespace Sys2Proof.Machine

/-! ### An index write followed by the base increment -/

/-- Writing I and advancing leaves every piece of state but I and PC alone. -/
theorem State.setI_advance_unchangedBut (s : State) (a : IndexWord) :
    UnchangedBut [.i, .pc] s (s.setI a).advance := by
  intro p hp
  cases p
  case i | pc => simp at hp
  all_goals simp [Piece.Same]

/-- An instruction whose answer is one write of I and the base increment (R22) changes I and PC alone. -/
theorem exec_next_of_setI_advance {i : Instr} {s : State} {a : IndexWord}
    (h : exec i s = .next (s.setI a).advance) :
    ∃ t, exec i s = .next t ∧ t.i = a ∧ t.pc = s.pc + 2#16 ∧ UnchangedBut [.i, .pc] s t :=
  ⟨_, h, rfl, rfl, s.setI_advance_unchangedBut a⟩

/-! ### The word Annn (R63) and what `exec` answers -/

theorem decodeWord_wordA_ldI (nnn : BitVec 12) : decodeWord (wordA 0xA nnn) = .ok (.ldI nnn) := by
  obtain ⟨hop, hnnn⟩ := fields_of_nnn _ 10 nnn (wordA_toNat 10 nnn (by decide))
  simp only [decodeWord_of_op _ 10 hop, hnnn]

theorem exec_ldI (nnn : BitVec 12) (s : State) : exec (.ldI nnn) s = .next (s.setI (indexOfAddress nnn)).advance := rfl

/-! ### The obligation -/

/-- Settles O43: I holds the address zero-extended, so as a number it is the address itself. -/
theorem loadIndexImmediate : Obligations.LoadIndexImmediate := by
  intro nnn s
  obtain ⟨t, hexec, hi, hframe⟩ := exec_next_of_setI_advance (exec_ldI nnn s)
  exact ⟨decodeWord_wordA_ldI nnn, t, hexec, by rw [hi, indexOfAddress_toNat], hframe⟩

end Sys2Proof.Machine
end

section
/-! PROOF. Timer access and the key placeholder (43_timers_key.md R104 to R107): a word of group F that decodes to the
instruction, the next state `exec` answers, and the frame of a timer write or of the base increment alone. -/

namespace Sys2Proof.Machine

/-! ### Words of group F (R63, R65) -/

theorem decodeGroupF_07 (w : Word) (h : fieldKk w = 0x07#8) : decodeGroupF w = .ok (.ldVxDt (fieldX w)) := by
  simp [decodeGroupF, h]

theorem decodeGroupF_0A (w : Word) (h : fieldKk w = 0x0A#8) : decodeGroupF w = .ok (.ldVxK (fieldX w)) := by
  simp [decodeGroupF, h]

theorem decodeGroupF_15 (w : Word) (h : fieldKk w = 0x15#8) : decodeGroupF w = .ok (.ldDtVx (fieldX w)) := by
  simp [decodeGroupF, h]

theorem decodeGroupF_18 (w : Word) (h : fieldKk w = 0x18#8) : decodeGroupF w = .ok (.ldStVx (fieldX w)) := by
  simp [decodeGroupF, h]

/-- A word Fxkk decodes to the instruction that the secondary dispatch of group F gives its low byte kk, with x as its
operand. -/
theorem decodeWord_Fxkk {mk : RegIdx → Instr} {kk : Byte}
    (h : ∀ w, fieldKk w = kk → decodeGroupF w = .ok (mk (fieldX w))) (x : RegIdx) :
    decodeWord (BitVec.ofNat 16 (0xF000 + kk.toNat + 0x100 * x.val)) = .ok (mk x) := by
  have hw : (BitVec.ofNat 16 (0xF000 + kk.toNat + 0x100 * x.val)).toNat = 4096 * 15 + 256 * x.val + kk.toNat := by
    have := x.isLt
    have := kk.isLt
    rw [BitVec.toNat_ofNat]
    omega
  obtain ⟨hop, hx, hkk⟩ := fields_of_xk _ 15 x kk hw
  simp only [decodeWord_of_op _ 15 hop, h _ hkk, hx]

/-! ### Frames of the timer writes and of the base increment -/

/-- Writing DT leaves every other piece of state alone. -/
theorem State.setDt_unchangedBut (s : State) (b : Timer) : UnchangedBut [.dt] s (s.setDt b) := by
  intro p hp
  cases p
  case dt => simp at hp
  all_goals simp [Piece.Same]

/-- Writing ST leaves every other piece of state alone. -/
theorem State.setSt_unchangedBut (s : State) (b : Timer) : UnchangedBut [.st] s (s.setSt b) := by
  intro p hp
  cases p
  case st => simp at hp
  all_goals simp [Piece.Same]

/-- The base increment (R22) is a write of PC. -/
theorem State.advance_unchangedBut (s : State) : UnchangedBut [.pc] s s.advance := s.setPc_unchangedBut _

/-- What two updates in turn may change is what the first or the second may change. -/
theorem UnchangedBut.trans {ps qs : List Piece} {s t u : State} (hst : UnchangedBut ps s t)
    (htu : UnchangedBut qs t u) : UnchangedBut (ps ++ qs) s u := by
  intro p hp
  rw [List.mem_append, not_or] at hp
  obtain ⟨hps, hqs⟩ := hp
  have h1 := hst p hps
  have h2 := htu p hqs
  cases p
  case v | stack | fb | mem => exact fun k => (h2 k).trans (h1 k)
  all_goals exact Eq.trans h2 h1

/-! ### What `exec` answers -/

theorem exec_ldVxDt (x : RegIdx) (s : State) : exec (.ldVxDt x) s = .next (s.setV x s.dt).advance := rfl

theorem exec_ldVxK (x : RegIdx) (s : State) : exec (.ldVxK x) s = .next s.advance := rfl

theorem exec_ldDtVx (x : RegIdx) (s : State) : exec (.ldDtVx x) s = .next (s.setDt (s.getV x)).advance := rfl

theorem exec_ldStVx (x : RegIdx) (s : State) : exec (.ldStVx x) s = .next (s.setSt (s.getV x)).advance := rfl

/-! ### The obligations -/

/-- Settles O49: each of the three is one write, of a register or of a timer, followed by the base increment. -/
theorem timerInstructionsCopyOneByte : Obligations.TimerInstructionsCopyOneByte := fun x s =>
  ⟨⟨decodeWord_Fxkk decodeGroupF_07 x, exec_next_of_setV_advance (exec_ldVxDt x s)⟩,
    ⟨decodeWord_Fxkk decodeGroupF_15 x, _, exec_ldDtVx x s, rfl, rfl,
      (s.setDt_unchangedBut _).trans (State.advance_unchangedBut _)⟩,
    ⟨decodeWord_Fxkk decodeGroupF_18 x, _, exec_ldStVx x s, rfl, rfl,
      (s.setSt_unchangedBut _).trans (State.advance_unchangedBut _)⟩⟩

/-- Settles O50: the key placeholder is the base increment alone. -/
theorem keyWaitIsANoOp : Obligations.KeyWaitIsANoOp := fun x s =>
  ⟨decodeWord_Fxkk decodeGroupF_0A x, _, exec_ldVxK x s, rfl, s.advance_unchangedBut⟩

end Sys2Proof.Machine
end

section
/-! PROOF. Clear of the display (44_display.md R109): a write of the whole framebuffer followed by the base increment. -/

namespace Sys2Proof.Machine

/-- Writing the framebuffer leaves every other piece of state alone. -/
theorem State.setFb_unchangedBut (s : State) (fb : Vector Byte Config.fbBytes) : UnchangedBut [.fb] s (s.setFb fb) := by
  intro p hp
  cases p
  case fb => simp at hp
  all_goals simp [Piece.Same]

/-- A framebuffer filled with one byte reads as that byte at each of its 256 places. -/
theorem fbByte_replicate (b : Byte) {k : Nat} (hk : k < 256) : fbByte (Vector.replicate Config.fbBytes b) k = b := by
  have hin : k < Config.fbBytes := hk
  simp [fbByte, hin]

theorem decodeWord_00E0 : decodeWord 0x00E0#16 = .ok .cls := by decide

theorem exec_cls (s : State) : exec .cls s = .next (s.setFb (Vector.replicate Config.fbBytes 0)).advance := rfl

/-- Settles O52: the framebuffer written is 256 zero bytes, and the frame is that of the write and of the base increment
in turn. -/
theorem clearZeroesTheFramebuffer : Obligations.ClearZeroesTheFramebuffer := fun s =>
  ⟨decodeWord_00E0, _, exec_cls s, fun _ hk => fbByte_replicate 0 hk, rfl,
    (s.setFb_unchangedBut _).trans (State.advance_unchangedBut _)⟩

end Sys2Proof.Machine
end

section
/-! PROOF. Decoding and encoding (30_encoding.md R57 to R70): decode of encode for every instruction, encode of decode for
every word, the words each group recognises, and the opcode table as a partition of the recognised words. -/

namespace Sys2Proof

open Sys2Proof.Machine

/-! ### The encoder's words in the form the decoder's lemmas speak of -/

theorem wordXK_15 (x : RegIdx) (kk : Byte) :
    wordXK 15 x kk = BitVec.ofNat 16 (0xF000 + kk.toNat + 0x100 * x.val) := by
  unfold wordXK
  congr 1
  omega

theorem wordOfNibbles_8 (x y : RegIdx) (k : Nat) :
    wordOfNibbles 8 x.val y.val k = BitVec.ofNat 16 (0x8000 + k + 0x100 * x.val + 0x10 * y.val) := by
  unfold wordOfNibbles
  congr 1
  omega

/-! ### Words of the other rows of R63 -/

theorem decodeGroupF_1E (w : Word) (h : fieldKk w = 0x1E#8) : decodeGroupF w = .ok (.addI (fieldX w)) := by
  simp [decodeGroupF, h]

theorem decodeGroupF_29 (w : Word) (h : fieldKk w = 0x29#8) : decodeGroupF w = .ok (.ldF (fieldX w)) := by
  simp [decodeGroupF, h]

theorem decodeGroupF_33 (w : Word) (h : fieldKk w = 0x33#8) : decodeGroupF w = .ok (.ldB (fieldX w)) := by
  simp [decodeGroupF, h]

theorem decodeGroupF_55 (w : Word) (h : fieldKk w = 0x55#8) : decodeGroupF w = .ok (.ldMemVx (fieldX w)) := by
  simp [decodeGroupF, h]

theorem decodeGroupF_65 (w : Word) (h : fieldKk w = 0x65#8) : decodeGroupF w = .ok (.ldVxMem (fieldX w)) := by
  simp [decodeGroupF, h]

theorem decodeWord_00EE : decodeWord 0x00EE#16 = .ok .ret := by decide

theorem decodeWord_wordA_call (nnn : BitVec 12) : decodeWord (wordA 0x2 nnn) = .ok (.call nnn) := by
  obtain ⟨hop, hnnn⟩ := fields_of_nnn _ 2 nnn (wordA_toNat 2 nnn (by decide))
  simp only [decodeWord_of_op _ 2 hop, hnnn]

/-- The fields of a word of four nibbles whose first is a top nibble, whose next two are register indices. -/
theorem fields_of_wordOfNibbles (op : Nat) (x y : RegIdx) (z : BitVec 4) (hop : op < 16) :
    (wordOfNibbles op x.val y.val z.toNat).toNat / 4096 = op ∧ fieldX (wordOfNibbles op x.val y.val z.toNat) = x ∧
      fieldY (wordOfNibbles op x.val y.val z.toNat) = y ∧ fieldN (wordOfNibbles op x.val y.val z.toNat) = z :=
  fields_of_xyn _ op x y z (wordOfNibbles_toNat _ _ _ _ hop x.isLt y.isLt z.isLt)

theorem decodeWord_wordOfNibbles_seReg (x y : RegIdx) (z : BitVec 4) :
    decodeWord (wordOfNibbles 0x5 x.val y.val z.toNat) = .ok (.seReg x y z) := by
  obtain ⟨hop, hx, hy, hz⟩ := fields_of_wordOfNibbles 5 x y z (by decide)
  simp only [decodeWord_of_op _ 5 hop, hx, hy, hz]

theorem decodeWord_wordOfNibbles_sneReg (x y : RegIdx) (z : BitVec 4) :
    decodeWord (wordOfNibbles 0x9 x.val y.val z.toNat) = .ok (.sneReg x y z) := by
  obtain ⟨hop, hx, hy, hz⟩ := fields_of_wordOfNibbles 9 x y z (by decide)
  simp only [decodeWord_of_op _ 9 hop, hx, hy, hz]

theorem decodeWord_wordOfNibbles_drw (x y : RegIdx) (n : Fin 16) :
    decodeWord (wordOfNibbles 0xD x.val y.val n.val) = .ok (.drw x y n) := by
  obtain ⟨hop, hx, hy, hn⟩ := fields_of_xyn (wordOfNibbles 0xD x.val y.val n.val) 13 x y (BitVec.ofFin n)
    (wordOfNibbles_toNat 13 _ _ _ (by decide) x.isLt y.isLt n.isLt)
  simp only [decodeWord_of_op _ 13 hop, hx, hy, hn]

/-! ### Decode of encode -/

/-- A word Fxkk, written as the encoder writes it, decodes as the secondary dispatch of group F says. -/
theorem decodeWord_wordXK_15 {mk : RegIdx → Instr} {kk : Byte}
    (h : ∀ w, fieldKk w = kk → decodeGroupF w = .ok (mk (fieldX w))) (x : RegIdx) :
    decodeWord (wordXK 0xF x kk) = .ok (mk x) := by
  rw [wordXK_15, decodeWord_Fxkk h x]

/-- A word 8xyk, written as the encoder writes it, decodes as the secondary dispatch of group 8 says. -/
theorem decodeWord_wordOfNibbles_8 {i : Instr} (x y : RegIdx) (k : Nat)
    (h : decodeWord (BitVec.ofNat 16 (0x8000 + k + 0x100 * x.val + 0x10 * y.val)) = .ok i) :
    decodeWord (wordOfNibbles 0x8 x.val y.val k) = .ok i := by
  rw [wordOfNibbles_8, h]

/-- The word of every instruction decodes to that instruction. -/
theorem decodeWord_encode : ∀ i : Instr, decodeWord (encode i) = .ok i
  | .cls => decodeWord_00E0
  | .ret => decodeWord_00EE
  | .jp nnn => decodeWord_wordA_jp nnn
  | .call nnn => decodeWord_wordA_call nnn
  | .seImm x kk => decodeWord_wordXK_seImm x kk
  | .sneImm x kk => decodeWord_wordXK_sneImm x kk
  | .seReg x y z => decodeWord_wordOfNibbles_seReg x y z
  | .ldImm x kk => decodeWord_wordXK_ldImm x kk
  | .addImm x kk => decodeWord_wordXK_addImm x kk
  | .ldReg x y => decodeWord_wordOfNibbles_8 x y 0x0 (decodeWord_8xyk x y 0x0 (by decide))
  | .orReg x y => decodeWord_wordOfNibbles_8 x y 0x1 (decodeWord_8xyk x y 0x1 (by decide))
  | .andReg x y => decodeWord_wordOfNibbles_8 x y 0x2 (decodeWord_8xyk x y 0x2 (by decide))
  | .xorReg x y => decodeWord_wordOfNibbles_8 x y 0x3 (decodeWord_8xyk x y 0x3 (by decide))
  | .addReg x y => decodeWord_wordOfNibbles_8 x y 0x4 (decodeWord_8xyk x y 0x4 (by decide))
  | .sub x y => decodeWord_wordOfNibbles_8 x y 0x5 (decodeWord_8xyk x y 0x5 (by decide))
  | .shr x y => decodeWord_wordOfNibbles_8 x y 0x6 (decodeWord_8xyk x y 0x6 (by decide))
  | .subn x y => decodeWord_wordOfNibbles_8 x y 0x7 (decodeWord_8xyk x y 0x7 (by decide))
  | .shl x y => decodeWord_wordOfNibbles_8 x y 0xE (decodeWord_8xyk x y 0xE (by decide))
  | .sneReg x y z => decodeWord_wordOfNibbles_sneReg x y z
  | .ldI nnn => decodeWord_wordA_ldI nnn
  | .drw x y n => decodeWord_wordOfNibbles_drw x y n
  | .ldVxDt x => decodeWord_wordXK_15 decodeGroupF_07 x
  | .ldVxK x => decodeWord_wordXK_15 decodeGroupF_0A x
  | .ldDtVx x => decodeWord_wordXK_15 decodeGroupF_15 x
  | .ldStVx x => decodeWord_wordXK_15 decodeGroupF_18 x
  | .addI x => decodeWord_wordXK_15 decodeGroupF_1E x
  | .ldF x => decodeWord_wordXK_15 decodeGroupF_29 x
  | .ldB x => decodeWord_wordXK_15 decodeGroupF_33 x
  | .ldMemVx x => decodeWord_wordXK_15 decodeGroupF_55 x
  | .ldVxMem x => decodeWord_wordXK_15 decodeGroupF_65 x

/-- Settles O1: the two bytes put together are the instruction's word, which decodes to the instruction. -/
theorem decodeOfEncodeIsTheInstruction : Obligations.DecodeOfEncodeIsTheInstruction := by
  intro i rest
  simp only [encodeBytes, List.cons_append, List.nil_append, decode, wordOfBytes_high_low, decodeWord_encode]

/-! ### Encode of decode -/

/-- A word is its top nibble and its address. -/
theorem wordA_fieldNnn {w : Word} {op : Nat} (hop : w.toNat / 4096 = op) : wordA op (fieldNnn w) = w := by
  have := w.isLt
  apply BitVec.eq_of_toNat_eq
  rw [wordA_toNat _ _ (by omega), fieldNnn_toNat]
  omega

/-- A word is its top nibble, its x and its low byte. -/
theorem wordXK_fields {w : Word} {op : Nat} {kk : Byte} (hop : w.toNat / 4096 = op) (hkk : fieldKk w = kk) :
    wordXK op (fieldX w) kk = w := by
  have := w.isLt
  apply BitVec.eq_of_toNat_eq
  rw [wordXK_toNat _ _ _ (by omega), fieldX_val, ← hkk, fieldKk_toNat]
  omega

/-- A word is its top nibble, its x, its y and its low nibble. -/
theorem wordOfNibbles_fields {w : Word} {op n : Nat} (hop : w.toNat / 4096 = op) (hn : (fieldN w).toNat = n) :
    wordOfNibbles op (fieldX w).val (fieldY w).val n = w := by
  have := w.isLt
  rw [fieldN_toNat] at hn
  apply BitVec.eq_of_toNat_eq
  rw [fieldX_val, fieldY_val, wordOfNibbles_toNat _ _ _ _ (by omega) (by omega) (by omega) (by omega)]
  omega

theorem encode_of_decodeGroup0 {w : Word} {i : Instr} (h : decodeGroup0 w = .ok i) : encode i = w := by
  unfold decodeGroup0 at h
  split at h
  · next hw => cases h; exact hw.symm
  · split at h
    · next hw => cases h; exact hw.symm
    · cases h

theorem encode_of_decodeGroup8 {w : Word} {i : Instr} (hop : w.toNat / 4096 = 8) (h : decodeGroup8 w = .ok i) :
    encode i = w := by
  unfold decodeGroup8 at h
  split at h <;> cases h
  all_goals exact wordOfNibbles_fields hop ‹_›

theorem encode_of_decodeGroupF {w : Word} {i : Instr} (hop : w.toNat / 4096 = 15) (h : decodeGroupF w = .ok i) :
    encode i = w := by
  unfold decodeGroupF at h
  repeat' split at h
  all_goals cases h
  all_goals exact wordXK_fields hop ‹_›

/-- Settles O2: each format puts the fields it takes from a word back where they were. -/
theorem encodeOfDecodeIsTheWord : Obligations.EncodeOfDecodeIsTheWord := by
  intro w i h
  unfold decodeWord at h
  rw [fieldOp_toNat] at h
  split at h
  · exact encode_of_decodeGroup0 h
  · next hop => cases h; exact wordA_fieldNnn hop
  · next hop => cases h; exact wordA_fieldNnn hop
  · next hop => cases h; exact wordXK_fields hop rfl
  · next hop => cases h; exact wordXK_fields hop rfl
  · next hop => cases h; exact wordOfNibbles_fields hop rfl
  · next hop => cases h; exact wordXK_fields hop rfl
  · next hop => cases h; exact wordXK_fields hop rfl
  · next hop => exact encode_of_decodeGroup8 hop h
  · next hop => cases h; exact wordOfNibbles_fields hop rfl
  · next hop => cases h; exact wordA_fieldNnn hop
  · next hop => cases h; exact wordOfNibbles_fields hop rfl
  · next hop => exact encode_of_decodeGroupF hop h
  · cases h

/-! ### The words a group recognises (R65, R68) -/

theorem decodeGroup0_isOk_iff (w : Word) :
    (∃ i, decodeGroup0 w = .ok i) ↔ w.toNat = 0x00E0 ∨ w.toNat = 0x00EE := by
  have hcls : w = 0x00E0#16 ↔ w.toNat = 0x00E0 := BitVec.toNat_inj.symm
  have hret : w = 0x00EE#16 ↔ w.toNat = 0x00EE := BitVec.toNat_inj.symm
  unfold decodeGroup0
  split
  · simp_all
  · split
    · simp_all
    · simp_all

theorem decodeGroup8_isOk_iff (w : Word) :
    (∃ i, decodeGroup8 w = .ok i) ↔ w.toNat % 0x10 ≤ 0x7 ∨ w.toNat % 0x10 = 0xE := by
  rw [← fieldN_toNat]
  unfold decodeGroup8
  split
  case h_10 =>
    simp only [imp_false] at *
    exact iff_of_false (fun ⟨_, h⟩ => by cases h) (by omega)
  all_goals
    next hn => simp [hn]

theorem decodeGroupF_isOk_iff (w : Word) :
    (∃ i, decodeGroupF w = .ok i) ↔ w.toNat % 0x100 ∈ [0x07, 0x0A, 0x15, 0x18, 0x1E, 0x29, 0x33, 0x55, 0x65] := by
  rw [← fieldKk_toNat]
  unfold decodeGroupF
  simp only [← BitVec.toNat_inj]
  repeat' split
  all_goals simp_all

/-- Settles O6: in each of the three groups the primary dispatch leaves the question to the secondary one. -/
theorem groupHolesAreUnrecognised : Obligations.GroupHolesAreUnrecognised := by
  intro w
  refine ⟨fun h => ?_, fun h => ?_, fun h => ?_⟩
  · rw [decodeWord_of_op w 0 (by omega)]
    exact decodeGroup0_isOk_iff w
  · rw [decodeWord_of_op w 8 h]
    exact decodeGroup8_isOk_iff w
  · rw [decodeWord_of_op w 15 h]
    exact decodeGroupF_isOk_iff w

/-! ### The opcode table (R63) -/

/-- Two rows that one word matches agree on the pattern bits both of them fix; no two rows of the table do. -/
theorem opcodeTable_rows_disjoint : ∀ r ∈ opcodeTable, ∀ r' ∈ opcodeTable,
    r.pattern &&& r'.mask = r'.pattern &&& r.mask → r.pattern = r'.pattern := by decide

theorem opcodeTable_patterns_nodup : (opcodeTable.map OpcodeRow.pattern).Nodup := by decide

/-- A word matches one row of the table at most. -/
theorem row_eq_of_matches {r r' : OpcodeRow} {w : Word} (hr : r ∈ opcodeTable) (hr' : r' ∈ opcodeTable)
    (h : r.matches w = true) (h' : r'.matches w = true) : r = r' := by
  rw [OpcodeRow.matches, beq_iff_eq] at h h'
  refine List.inj_on_of_nodup_map opcodeTable_patterns_nodup hr hr' (opcodeTable_rows_disjoint r hr r' hr' ?_)
  rw [← h, ← h', BitVec.and_assoc, BitVec.and_assoc, BitVec.and_comm r.mask]

/-- The row of every instruction stands in the table. -/
theorem row_mem_opcodeTable (i : Instr) : i.row ∈ opcodeTable := by
  cases i
  all_goals exact of_decide_eq_true rfl

/-- The encoding of every instruction lies in the instruction's own row. -/
theorem row_matches_encode (i : Instr) : i.row.matches (encode i) = true := by
  cases i with
  | cls => exact Laws.RowMatch.cls
  | ret => exact Laws.RowMatch.ret
  | jp nnn => exact Laws.RowMatch.jp nnn
  | call nnn => exact Laws.RowMatch.call nnn
  | seImm x kk => exact Laws.RowMatch.seImm x kk
  | sneImm x kk => exact Laws.RowMatch.sneImm x kk
  | seReg x y z => exact Laws.RowMatch.seReg x y z
  | ldImm x kk => exact Laws.RowMatch.ldImm x kk
  | addImm x kk => exact Laws.RowMatch.addImm x kk
  | ldReg x y => exact Laws.RowMatch.ldReg x y
  | orReg x y => exact Laws.RowMatch.orReg x y
  | andReg x y => exact Laws.RowMatch.andReg x y
  | xorReg x y => exact Laws.RowMatch.xorReg x y
  | addReg x y => exact Laws.RowMatch.addReg x y
  | sub x y => exact Laws.RowMatch.sub x y
  | shr x y => exact Laws.RowMatch.shr x y
  | subn x y => exact Laws.RowMatch.subn x y
  | shl x y => exact Laws.RowMatch.shl x y
  | sneReg x y z => exact Laws.RowMatch.sneReg x y z
  | ldI nnn => exact Laws.RowMatch.ldI nnn
  | drw x y n => exact Laws.RowMatch.drw x y n
  | ldVxDt x => exact Laws.RowMatch.ldVxDt x
  | ldVxK x => exact Laws.RowMatch.ldVxK x
  | ldDtVx x => exact Laws.RowMatch.ldDtVx x
  | ldStVx x => exact Laws.RowMatch.ldStVx x
  | addI x => exact Laws.RowMatch.addI x
  | ldF x => exact Laws.RowMatch.ldF x
  | ldB x => exact Laws.RowMatch.ldB x
  | ldMemVx x => exact Laws.RowMatch.ldMemVx x
  | ldVxMem x => exact Laws.RowMatch.ldVxMem x

/-- The rows that the encoding of an instruction matches are its own row, once. -/
theorem filter_matches_encode (i : Instr) : opcodeTable.filter (fun r => r.matches (encode i)) = [i.row] := by
  have hone : opcodeTable.count i.row = 1 :=
    List.count_eq_one_of_mem opcodeTable_patterns_nodup.of_map (row_mem_opcodeTable i)
  have hsame : opcodeTable.filter (fun r => r.matches (encode i)) = opcodeTable.filter (· == i.row) := by
    apply List.filter_congr
    intro r hr
    rw [Bool.eq_iff_iff, beq_iff_eq]
    exact ⟨fun h => row_eq_of_matches hr (row_mem_opcodeTable i) h (row_matches_encode i),
      fun h => h ▸ row_matches_encode i⟩
  rw [hsame, List.filter_beq, hone, List.replicate_one]

/-- The four kinds of rows: two whole words, the rows of a top nibble, and those of group 8 and of group F. -/
theorem opcodeTable_row_kinds : ∀ r ∈ opcodeTable,
    (r.mask = 0xFFFF#16 ∧ (r.pattern.toNat = 0x00E0 ∨ r.pattern.toNat = 0x00EE)) ∨
    (r.mask = 0xF000#16 ∧ r.pattern.toNat / 0x1000 ∈ [1, 2, 3, 4, 5, 6, 7, 9, 10, 13]) ∨
    (r.mask = 0xF00F#16 ∧ r.pattern.toNat / 0x1000 = 8 ∧
      (r.pattern.toNat % 0x10 ≤ 0x7 ∨ r.pattern.toNat % 0x10 = 0xE)) ∨
    (r.mask = 0xF0FF#16 ∧ r.pattern.toNat / 0x1000 = 15 ∧
      r.pattern.toNat % 0x100 ∈ [0x07, 0x0A, 0x15, 0x18, 0x1E, 0x29, 0x33, 0x55, 0x65]) := by decide

/-- Ten top nibbles need no secondary dispatch (R64). -/
theorem decodeWord_ok_of_op {w : Word} (h : w.toNat / 0x1000 ∈ [1, 2, 3, 4, 5, 6, 7, 9, 10, 13]) :
    ∃ i, decodeWord w = .ok i := by
  simp only [List.mem_cons, List.not_mem_nil, or_false] at h
  rcases h with h | h | h | h | h | h | h | h | h | h
  all_goals exact ⟨_, decodeWord_of_op w _ h⟩

/-- A word that matches a row of the table is an instruction. -/
theorem decodeWord_ok_of_matches {r : OpcodeRow} {w : Word} (hr : r ∈ opcodeTable) (h : r.matches w = true) :
    ∃ i, decodeWord w = .ok i := by
  obtain ⟨hgroup0, hgroup8, hgroupF⟩ := groupHolesAreUnrecognised w
  rw [OpcodeRow.matches_iff] at h
  rcases opcodeTable_row_kinds r hr with ⟨hm, hp⟩ | ⟨hm, hop⟩ | ⟨hm, hop, hn⟩ | ⟨hm, hop, hkk⟩
  · rw [hm, show (0xFFFF#16 : Word) = BitVec.allOnes 16 from rfl, BitVec.and_allOnes] at h
    exact (hgroup0 (by omega)).mpr (by omega)
  · rw [hm, mask_op] at h
    have hsame : w.toNat / 0x1000 = r.pattern.toNat / 0x1000 := by omega
    exact decodeWord_ok_of_op (hsame ▸ hop)
  · rw [hm, mask_op_low4] at h
    exact (hgroup8 (by omega)).mpr (by omega)
  · rw [hm, mask_op_low8] at h
    have hsame : w.toNat % 0x100 = r.pattern.toNat % 0x100 := by omega
    exact (hgroupF (by omega)).mpr (hsame ▸ hkk)

/-- Settles O3: the word of an instruction is the encoding of that instruction (O2), which matches the instruction's row
alone; a word that matched a row would be an instruction. -/
theorem wordIsAnInstructionIffOneRowMatches : Obligations.WordIsAnInstructionIffOneRowMatches := by
  refine ⟨rfl, fun w => ⟨fun i h => ?_, fun e h => ?_⟩⟩
  · rw [← encodeOfDecodeIsTheWord w i h]
    exact filter_matches_encode i
  · refine List.filter_eq_nil_iff.mpr fun r hr hmatch => ?_
    obtain ⟨i, hok⟩ := decodeWord_ok_of_matches hr hmatch
    rw [h] at hok
    cases hok

/-- Settles O4: the decoder evaluated on nine closed words. -/
theorem sampleWordsDecode : Obligations.SampleWordsDecode := by
  unfold Obligations.SampleWordsDecode
  decide

end Sys2Proof
end

section
/-! PROOF. The instructions one by one: the frame of each state operation, what `exec` answers for each instruction that
completes, and the fatal answer (60_exceptions.md R122 to R124). -/

namespace Sys2Proof.Machine

/-! ### Frames -/

/-- A frame may list more than what changes. -/
theorem UnchangedBut.mono {ps qs : List Piece} {s t : State} (h : UnchangedBut ps s t) (hsub : ∀ p ∈ ps, p ∈ qs) :
    UnchangedBut qs s t := fun p hp => h p fun hmem => hp (hsub p hmem)

/-- Writing a register leaves every other piece of state alone. -/
theorem State.setV_unchangedBut (s : State) (x : RegIdx) (b : Reg) : UnchangedBut [.v] s (s.setV x b) := by
  intro p hp
  cases p
  case v => simp at hp
  all_goals simp [Piece.Same]

theorem State.setFlag_unchangedBut (s : State) (f : Reg) : UnchangedBut [.v] s (s.setFlag f) :=
  s.setV_unchangedBut RegIdx.vf f

/-- Writing the register file leaves every other piece of state alone. -/
theorem State.setRegs_unchangedBut (s : State) (w : Vector Reg Config.nregs) : UnchangedBut [.v] s (s.setRegs w) := by
  intro p hp
  cases p
  case v => simp at hp
  all_goals simp [Piece.Same]

/-- Writing SP leaves every other piece of state alone, the stack entries too (R27). -/
theorem State.setSp_unchangedBut (s : State) (p : Option StackIdx) : UnchangedBut [.sp] s (s.setSp p) := by
  intro p hp
  cases p
  case sp => simp at hp
  all_goals simp [Piece.Same]

/-- Writing a stack entry leaves every other piece of state alone. -/
theorem State.setStackAt_unchangedBut (s : State) (k : StackIdx) (a : StackWord) :
    UnchangedBut [.stack] s (s.setStackAt k a) := by
  intro p hp
  cases p
  case stack => simp at hp
  all_goals simp [Piece.Same]

/-- Storing a run of bytes leaves every other piece of state alone. -/
theorem State.storeBytes_unchangedBut (s : State) (a : Nat) (bs : List Byte) :
    UnchangedBut [.mem] s (s.storeBytes a bs) := by
  intro p hp
  cases p
  case mem => simp at hp
  all_goals simp [Piece.Same]

/-- Latching a word in OPCODE leaves every other piece of state alone (R43). -/
theorem State.setOpcode_unchangedBut (s : State) (w : Word) : UnchangedBut [.opcode] s (s.setOpcode w) := by
  intro p hp
  cases p
  case opcode => simp at hp
  all_goals simp [Piece.Same]

/-- A fatal condition changes HALT and CAUSE alone (R124). -/
theorem State.raiseFatal_unchangedBut (s : State) (c : Cause) : UnchangedBut [.halt, .cause] s (s.raiseFatal c) := by
  intro p hp
  cases p
  case halt | cause => simp at hp
  all_goals simp [Piece.Same]

/-! ### What `exec` answers where it makes no check -/

theorem exec_seReg (x y : RegIdx) (z : BitVec 4) (s : State) :
    exec (.seReg x y z) s = .next (s.skipIf (s.getV x == s.getV y)) := rfl

theorem exec_sneReg (x y : RegIdx) (z : BitVec 4) (s : State) :
    exec (.sneReg x y z) s = .next (s.skipIf (s.getV x != s.getV y)) := rfl

theorem exec_addReg (x y : RegIdx) (s : State) :
    exec (.addReg x y) s = .next ((s.setFlag (carryFlag ((s.getV x).toNat + (s.getV y).toNat))).setV x
      (BitVec.ofNat 8 ((s.getV x).toNat + (s.getV y).toNat))).advance := rfl

theorem exec_sub (x y : RegIdx) (s : State) :
    exec (.sub x y) s = .next ((s.setFlag (greaterFlag (s.getV x) (s.getV y))).setV x
      ((s.setFlag (greaterFlag (s.getV x) (s.getV y))).getV x -
        (s.setFlag (greaterFlag (s.getV x) (s.getV y))).getV y)).advance := rfl

theorem exec_shr (x y : RegIdx) (s : State) :
    exec (.shr x y) s = .next ((s.setFlag (lowBitFlag (s.getV x))).setV x
      ((s.setFlag (lowBitFlag (s.getV x))).getV x >>> 1)).advance := rfl

theorem exec_subn (x y : RegIdx) (s : State) :
    exec (.subn x y) s = .next ((s.setFlag (greaterFlag (s.getV y) (s.getV x))).setV x
      ((s.setFlag (greaterFlag (s.getV y) (s.getV x))).getV y -
        (s.setFlag (greaterFlag (s.getV y) (s.getV x))).getV x)).advance := rfl

theorem exec_shl (x y : RegIdx) (s : State) :
    exec (.shl x y) s = .next ((s.setFlag (lowBitFlag (s.getV x))).setV x
      ((s.setFlag (lowBitFlag (s.getV x))).getV x <<< 1)).advance := rfl

theorem exec_addI (x : RegIdx) (s : State) :
    exec (.addI x) s = .next (s.setI (s.i + indexOfReg (s.getV x))).advance := rfl

/-! ### What `exec` answers where its checks pass -/

/-- The address of element 0 is I itself (R96). -/
@[simp] theorem State.ea_zero (s : State) : s.ea 0 = s.i.toNat := rfl

theorem exec_ret {s : State} {k : StackIdx} (h : s.sp = some k) :
    exec .ret s = .next ((s.setPc (s.stackAt k)).advance.setSp (spBelow k)) := by
  simp [exec, execRet, h]

theorem exec_call (nnn : BitVec 12) {s : State} {k : StackIdx} (h : slotAbove s.sp = some k) :
    exec (.call nnn) s = .next (((s.setSp (some k)).setStackAt k s.pc).setPc (pcOfAddress nnn)) := by
  simp [exec, execCall, h]

theorem exec_ldF {x : RegIdx} {s : State} (h : (s.getV x).toNat ≤ 15) :
    exec (.ldF x) s = .next (s.setI (BitVec.ofNat 16 (5 * (s.getV x).toNat))).advance := by
  simp [exec, execLdF, show ¬ 16 ≤ (s.getV x).toNat by omega]

theorem exec_ldB {x : RegIdx} {s : State} (h : s.i.toNat + 2 ≤ 4095) :
    exec (.ldB x) s = .next (s.storeBytes s.i.toNat (bcdDigits (s.getV x))).advance := by
  simp [exec, execLdB, State.ea, (outOfMemory_eq_false _).mpr h]

theorem exec_ldMemVx {x : RegIdx} {s : State} (h : s.i.toNat + x.val ≤ 4095) :
    exec (.ldMemVx x) s = .next (s.storeBytes s.i.toNat (s.regsUpTo x)).advance := by
  simp [exec, execLdMemVx, State.ea, (outOfMemory_eq_false _).mpr h]

theorem exec_ldVxMem {x : RegIdx} {s : State} (h : s.i.toNat + x.val ≤ 4095) :
    exec (.ldVxMem x) s = .next ((s.setRegs (loadRegs s.mem s.i.toNat s.v (x.val + 1))).setI
      (BitVec.ofNat 16 (s.i.toNat + (x.val + 1)))).advance := by
  simp [exec, execLdVxMem, Config.fx65AdvancesI, State.ea, (outOfMemory_eq_false _).mpr h]

/-- The framebuffer and the collision that `Dxyn` computes from a state (R112, R113). -/
def State.drawn (s : State) (x y : RegIdx) (n : Fin 16) : Vector Byte Config.fbBytes × Bool :=
  drawRows s.mem s.i.toNat (s.getV x).toNat (s.getV y).toNat 0 s.fb false n.val

theorem exec_drw {x y : RegIdx} {n : Fin 16} {s : State} (h : fatalCause (.drw x y n) s = none) :
    exec (.drw x y n) s =
      .next ((s.setFb (s.drawn x y n).1).setFlag (flagByte (s.drawn x y n).2)).advance := by
  rw [fatalCause, ← drawCheck_eq_drawFatalCause] at h
  simp [exec, execDrw, State.drawn, h]

/-! ### The fatal answer, and when there is none -/

theorem fatalCause_ret_none {s : State} (h : fatalCause .ret s = none) : ∃ k, s.sp = some k := by
  cases hsp : s.sp with
  | none => simp [fatalCause, State.spInt, hsp] at h
  | some k => exact ⟨k, rfl⟩

theorem fatalCause_call_none {nnn : BitVec 12} {s : State} (h : fatalCause (.call nnn) s = none) :
    ∃ k, slotAbove s.sp = some k := by
  cases hslot : slotAbove s.sp with
  | none => simp [fatalCause, (slotAbove_eq_none s).mp hslot] at h
  | some k => exact ⟨k, rfl⟩

theorem fatalCause_ldF_none {x : RegIdx} {s : State} (h : fatalCause (.ldF x) s = none) : (s.getV x).toNat ≤ 15 := by
  simpa [fatalCause] using h

theorem fatalCause_ldB_none {x : RegIdx} {s : State} (h : fatalCause (.ldB x) s = none) : s.i.toNat + 2 ≤ 4095 := by
  simp only [fatalCause, ite_eq_right_iff, reduceCtorEq, imp_false] at h
  omega

theorem fatalCause_ldMemVx_none {x : RegIdx} {s : State} (h : fatalCause (.ldMemVx x) s = none) :
    s.i.toNat + x.val ≤ 4095 := by
  simpa [fatalCause] using h

theorem fatalCause_ldVxMem_none {x : RegIdx} {s : State} (h : fatalCause (.ldVxMem x) s = none) :
    s.i.toNat + x.val ≤ 4095 := by
  simpa [fatalCause] using h

/-- An instruction that meets a fatal condition changes HALT and CAUSE alone: every check precedes every effect (R124). -/
theorem exec_of_fatalCause {i : Instr} {s : State} {c : Cause} (h : fatalCause i s = some c) :
    exec i s = .next (s.raiseFatal c) := by
  cases i with
  | ret =>
    simp only [fatalCause, Option.ite_none_right_eq_some, Option.some.injEq] at h
    obtain ⟨hsp, rfl⟩ := h
    cases hk : s.sp with
    | none => simp [exec, execRet, State.fatal, hk]
    | some k => rw [State.spInt_of_some s k hk] at hsp; omega
  | call nnn =>
    simp only [fatalCause, Option.ite_none_right_eq_some, Option.some.injEq] at h
    obtain ⟨hsp, rfl⟩ := h
    simp [exec, execCall, State.fatal, (slotAbove_eq_none s).mpr hsp]
  | ldF x =>
    simp only [fatalCause, Option.ite_none_right_eq_some, Option.some.injEq] at h
    obtain ⟨hdigit, rfl⟩ := h
    exact if_pos hdigit
  | ldB x =>
    simp only [fatalCause, Option.ite_none_right_eq_some, Option.some.injEq] at h
    obtain ⟨hbound, rfl⟩ := h
    exact if_pos ((outOfMemory_iff _).mpr hbound)
  | ldMemVx x =>
    simp only [fatalCause, Option.ite_none_right_eq_some, Option.some.injEq] at h
    obtain ⟨hbound, rfl⟩ := h
    exact if_pos ((outOfMemory_iff _).mpr hbound)
  | ldVxMem x =>
    simp only [fatalCause, Option.ite_none_right_eq_some, Option.some.injEq] at h
    obtain ⟨hbound, rfl⟩ := h
    exact if_pos ((outOfMemory_iff _).mpr hbound)
  | drw x y n =>
    rw [fatalCause, ← drawCheck_eq_drawFatalCause] at h
    simp [exec, execDrw, State.fatal, h]
  | _ => cases h

end Sys2Proof.Machine
end

section
/-! PROOF. What holds of every instruction: `Completes` says once what an instruction that meets no fatal condition leaves,
and the statements about all instructions follow from it and from the fatal answer. -/

namespace Sys2Proof.Machine

/-! ### What a completed instruction leaves -/

/-- The PC an instruction leaves when it completes (R22). -/
def nextPc (i : Instr) (s : State) : PcWord :=
  match i with
  | .jp nnn | .call nnn => pcOfAddress nnn
  | .ret => match s.sp with
    | some k => s.stackAt k + 2#16
    | none => s.pc
  | .seImm x kk => (s.skipIf (s.getV x == kk)).pc
  | .sneImm x kk => (s.skipIf (s.getV x != kk)).pc
  | .seReg x y _ => (s.skipIf (s.getV x == s.getV y)).pc
  | .sneReg x y _ => (s.skipIf (s.getV x != s.getV y)).pc
  | _ => s.pc + 2#16

/-- The state `t` is one that instruction `i` may leave of `s` when it completes: its registers and pieces alone are
written, PC follows R22, and memory stays canonical. -/
structure Completes (i : Instr) (s t : State) : Prop where
  frame : UnchangedBut ([.v, .pc] ++ writtenPieces i) s t
  regs : ∀ r, r ∉ writtenRegs i → t.getV r = s.getV r
  pc : t.pc = nextPc i s
  memCanonical : s.mem.wf = true → t.mem.wf = true

section
variable {i : Instr} {s t : State}

/-- An instruction that writes no register and no memory. -/
theorem Completes.of_no_regs {ps : List Piece} (hframe : UnchangedBut ps s t)
    (hsub : ∀ p ∈ ps, p ∈ .pc :: writtenPieces i) (hpc : t.pc = nextPc i s) (hv : t.v = s.v) (hmem : t.mem = s.mem) :
    Completes i s t where
  frame := hframe.mono fun p hp => List.mem_cons_of_mem _ (hsub p hp)
  regs r _ := by rw [State.getV, hv, State.getV]
  pc := hpc
  memCanonical h := hmem ▸ h

/-- An instruction that writes one register and advances. -/
theorem Completes.of_setV {x : RegIdx} {b : Reg} (hregs : writtenRegs i = [x]) (hpc : nextPc i s = s.pc + 2#16) :
    Completes i s (s.setV x b).advance where
  frame := (s.setV_advance_unchangedBut x b).mono fun _ => List.mem_append_left _
  regs r hr := by
    rw [hregs, List.mem_singleton] at hr
    rw [State.getV_advance, State.getV_setV_ne s x r b hr]
  pc := hpc.symm
  memCanonical h := h

/-- An instruction that writes VF, then a register, and advances. -/
theorem Completes.of_setFlag_setV {x : RegIdx} {f b : Reg} (hregs : writtenRegs i = [15, x])
    (hpc : nextPc i s = s.pc + 2#16) : Completes i s ((s.setFlag f).setV x b).advance where
  frame := ((s.setFlag_unchangedBut f).trans (State.setV_advance_unchangedBut _ x b)).mono
    fun p hp => List.mem_append_left _ (by simpa using hp)
  regs r hr := by
    rw [hregs, List.mem_cons, List.mem_singleton, not_or] at hr
    rw [State.getV_advance, State.getV_setV_ne _ x r b hr.2, State.getV_setFlag_ne s r f hr.1]
  pc := hpc.symm
  memCanonical h := h

/-- An instruction that writes I and advances. -/
theorem Completes.of_setI {a : IndexWord} (hpieces : writtenPieces i = [.i]) (hpc : nextPc i s = s.pc + 2#16) :
    Completes i s (s.setI a).advance :=
  .of_no_regs (s.setI_advance_unchangedBut a) (by simp [hpieces]) hpc.symm rfl rfl

/-- A skip. -/
theorem Completes.of_skipIf {c : Bool} (hpc : nextPc i s = (s.skipIf c).pc) : Completes i s (s.skipIf c) :=
  .of_no_regs (s.skipIf_unchangedBut c) (by simp) hpc.symm (by rw [State.skipIf_eq, State.setPc_v])
    (by rw [State.skipIf_eq, State.setPc_mem])

/-- An instruction that stores a run of bytes inside memory and advances. -/
theorem Completes.of_storeBytes {a : Nat} {bs : List Byte} (hpieces : writtenPieces i = [.mem])
    (hpc : nextPc i s = s.pc + 2#16) (hbound : a + bs.length ≤ 4096) :
    Completes i s (s.storeBytes a bs).advance where
  frame := ((s.storeBytes_unchangedBut a bs).trans (State.advance_unchangedBut _)).mono (by simp [hpieces])
  regs _ _ := rfl
  pc := hpc.symm
  memCanonical := Memory.wf_writeBytes bs s.mem a hbound

end

/-- Everything an instruction can do that meets no fatal condition. -/
theorem exec_completes {i : Instr} {s : State} (h : fatalCause i s = none) :
    ∃ t, exec i s = .next t ∧ Completes i s t := by
  cases i with
  | cls =>
    exact ⟨_, exec_cls s, .of_no_regs ((s.setFb_unchangedBut _).trans (State.advance_unchangedBut _))
      (by simp [writtenPieces]) rfl rfl rfl⟩
  | ret =>
    obtain ⟨k, hk⟩ := fatalCause_ret_none h
    exact ⟨_, exec_ret hk, .of_no_regs (((s.setPc_unchangedBut _).trans (State.advance_unchangedBut _)).trans
      (State.setSp_unchangedBut _ _)) (by simp [writtenPieces]) (by simp [nextPc, hk]) rfl rfl⟩
  | jp nnn => exact ⟨_, exec_jp nnn s, .of_no_regs (s.setPc_unchangedBut _) (by simp) rfl rfl rfl⟩
  | call nnn =>
    obtain ⟨k, hk⟩ := fatalCause_call_none h
    exact ⟨_, exec_call nnn hk, .of_no_regs (((s.setSp_unchangedBut _).trans (State.setStackAt_unchangedBut _ _ _)).trans
      (State.setPc_unchangedBut _ _)) (by simp [writtenPieces]) rfl rfl rfl⟩
  | seImm x kk => exact ⟨_, exec_seImm x kk s, .of_skipIf rfl⟩
  | sneImm x kk => exact ⟨_, exec_sneImm x kk s, .of_skipIf rfl⟩
  | seReg x y z => exact ⟨_, exec_seReg x y z s, .of_skipIf rfl⟩
  | sneReg x y z => exact ⟨_, exec_sneReg x y z s, .of_skipIf rfl⟩
  | ldImm x kk => exact ⟨_, exec_ldImm x kk s, .of_setV rfl rfl⟩
  | addImm x kk => exact ⟨_, exec_addImm x kk s, .of_setV rfl rfl⟩
  | ldReg x y => exact ⟨_, exec_ldReg x y s, .of_setV rfl rfl⟩
  | orReg x y => exact ⟨_, exec_orReg x y s, .of_setV rfl rfl⟩
  | andReg x y => exact ⟨_, exec_andReg x y s, .of_setV rfl rfl⟩
  | xorReg x y => exact ⟨_, exec_xorReg x y s, .of_setV rfl rfl⟩
  | ldVxDt x => exact ⟨_, exec_ldVxDt x s, .of_setV rfl rfl⟩
  | addReg x y => exact ⟨_, exec_addReg x y s, .of_setFlag_setV rfl rfl⟩
  | sub x y => exact ⟨_, exec_sub x y s, .of_setFlag_setV rfl rfl⟩
  | shr x y => exact ⟨_, exec_shr x y s, .of_setFlag_setV rfl rfl⟩
  | subn x y => exact ⟨_, exec_subn x y s, .of_setFlag_setV rfl rfl⟩
  | shl x y => exact ⟨_, exec_shl x y s, .of_setFlag_setV rfl rfl⟩
  | ldI nnn => exact ⟨_, exec_ldI nnn s, .of_setI rfl rfl⟩
  | addI x => exact ⟨_, exec_addI x s, .of_setI rfl rfl⟩
  | ldF x => exact ⟨_, exec_ldF (fatalCause_ldF_none h), .of_setI rfl rfl⟩
  | drw x y n =>
    refine ⟨_, exec_drw h, ?_, fun r hr => ?_, rfl, id⟩
    · exact (((s.setFb_unchangedBut _).trans (State.setFlag_unchangedBut _ _)).trans (State.advance_unchangedBut _)).mono
        (by simp [writtenPieces])
    · rw [writtenRegs, List.mem_singleton] at hr
      rw [State.getV_advance, State.getV_setFlag_ne _ r _ hr, State.getV_setFb]
  | ldVxK x => exact ⟨_, exec_ldVxK x s, .of_no_regs s.advance_unchangedBut (by simp) rfl rfl rfl⟩
  | ldDtVx x =>
    exact ⟨_, exec_ldDtVx x s, .of_no_regs ((s.setDt_unchangedBut _).trans (State.advance_unchangedBut _))
      (by simp [writtenPieces]) rfl rfl rfl⟩
  | ldStVx x =>
    exact ⟨_, exec_ldStVx x s, .of_no_regs ((s.setSt_unchangedBut _).trans (State.advance_unchangedBut _))
      (by simp [writtenPieces]) rfl rfl rfl⟩
  | ldB x =>
    have hbound := fatalCause_ldB_none h
    exact ⟨_, exec_ldB hbound, .of_storeBytes rfl rfl (by rw [bcdDigits_length]; omega)⟩
  | ldMemVx x =>
    have hbound := fatalCause_ldMemVx_none h
    exact ⟨_, exec_ldMemVx hbound, .of_storeBytes rfl rfl (by rw [State.regsUpTo_length]; omega)⟩
  | ldVxMem x =>
    refine ⟨_, exec_ldVxMem (fatalCause_ldVxMem_none h), ?_, fun r hr => ?_, rfl, id⟩
    · exact ((s.setRegs_unchangedBut _).trans (State.setI_advance_unchangedBut _ _)).mono (by simp [writtenPieces])
    · have hlt : ¬ r.val < x.val + 1 := by simpa [writtenRegs, Nat.lt_succ_iff] using hr
      rw [State.getV_advance, State.getV_setI, State.getV, State.setRegs_v, loadRegs_getElem _ _ _ _ r.isLt, if_neg hlt,
        State.getV]

/-- An instruction is fatal or completes (R7). -/
theorem exec_cases (i : Instr) (s : State) :
    (∃ c, fatalCause i s = some c ∧ exec i s = .next (s.raiseFatal c)) ∨
    (fatalCause i s = none ∧ ∃ t, exec i s = .next t ∧ Completes i s t) := by
  cases h : fatalCause i s with
  | some c => exact .inl ⟨c, rfl, exec_of_fatalCause h⟩
  | none => exact .inr ⟨rfl, exec_completes h⟩

/-! ### The frame of a completed instruction, piece by piece -/

theorem halt_cause_opcode_not_written (i : Instr) :
    Piece.halt ∉ [.v, .pc] ++ writtenPieces i ∧ Piece.cause ∉ [.v, .pc] ++ writtenPieces i ∧
      Piece.opcode ∉ [.v, .pc] ++ writtenPieces i := by
  cases i
  all_goals simp [writtenPieces]

section
variable {i : Instr} {s t : State}

theorem Completes.halt_eq (h : Completes i s t) : t.halt = s.halt := h.frame .halt (halt_cause_opcode_not_written i).1

theorem Completes.cause_eq (h : Completes i s t) : t.cause = s.cause :=
  h.frame .cause (halt_cause_opcode_not_written i).2.1

/-- DT is written by Fx15 alone. -/
theorem Completes.dt_eq (h : Completes i s t) (hi : ∀ x, i ≠ .ldDtVx x) : t.dt = s.dt := by
  refine h.frame .dt ?_
  cases i with
  | ldDtVx x => exact absurd rfl (hi x)
  | _ => simp [writtenPieces]

/-- ST is written by Fx18 alone. -/
theorem Completes.st_eq (h : Completes i s t) (hi : ∀ x, i ≠ .ldStVx x) : t.st = s.st := by
  refine h.frame .st ?_
  cases i with
  | ldStVx x => exact absurd rfl (hi x)
  | _ => simp [writtenPieces]

/-- The stack entries are written by 2nnn alone. -/
theorem Completes.stackAt_eq (h : Completes i s t) (hi : ∀ nnn, i ≠ .call nnn) (k : StackIdx) :
    t.stackAt k = s.stackAt k := by
  refine h.frame .stack ?_ k
  cases i with
  | call nnn => exact absurd rfl (hi nnn)
  | _ => simp [writtenPieces]

end

/-! ### Statements about every instruction -/

/-- Settles O24: a completed instruction leaves what `Completes` says, and a fatal one writes no register. -/
theorem eachInstructionWritesOnlyItsOwnState : Obligations.EachInstructionWritesOnlyItsOwnState := by
  intro i s
  rcases exec_cases i s with ⟨c, hc, hexec⟩ | ⟨-, t, hexec, hcompletes⟩
  · exact ⟨_, hexec, fun _ _ => rfl, fun hnone => by rw [hc] at hnone; cases hnone⟩
  · exact ⟨t, hexec, hcompletes.regs, fun _ => hcompletes.frame⟩

/-- PC plus a small number does not wrap below the last address that can be fetched (R23). -/
theorem pc_add_toNat {p : BitVec 16} (hp : p.toNat ≤ 4094) (n : BitVec 16) (hn : n.toNat ≤ 4) :
    (p + n).toNat = p.toNat + n.toNat := by
  rw [BitVec.toNat_add]
  omega

/-- The PC after a skip as a number. -/
theorem State.skipIf_pc_toNat {s : State} (hp : s.pc.toNat ≤ 4094) (c : Bool) :
    (s.skipIf c).pc.toNat = s.pc.toNat + if c then 4 else 2 := by
  rw [State.skipIf_pc]
  cases c
  · exact pc_add_toNat hp 2#16 (by decide)
  · exact pc_add_toNat hp 4#16 (by decide)

/-- The PC a completed instruction leaves is at most 4098 (R23). -/
theorem nextPc_le (i : Instr) {s : State} (hp : s.pc.toNat ≤ 4094) (hstack : ∀ k, (s.stackAt k).toNat ≤ 4094) :
    (nextPc i s).toNat ≤ 4098 := by
  have hplus2 : ∀ {p : BitVec 16}, p.toNat ≤ 4094 → (p + 2#16).toNat ≤ 4098 := fun hp => by
    rw [pc_add_toNat hp 2#16 (by decide), BitVec.toNat_ofNat]
    omega
  have hskip : ∀ c, (s.skipIf c).pc.toNat ≤ 4098 := fun c => by
    rw [State.skipIf_pc_toNat hp]
    split <;> omega
  cases i with
  | jp nnn | call nnn =>
    have := nnn.isLt
    rw [nextPc, pcOfAddress_toNat]
    omega
  | ret =>
    rw [nextPc]
    split
    · exact hplus2 (hstack _)
    · omega
  | seImm | sneImm | seReg | sneReg => exact hskip _
  | _ => exact hplus2 hp

end Sys2Proof.Machine
end

section
/-! PROOF. Fetch and step (00_scope.md R7, 20_memory.md R42 to R55, 60_exceptions.md R122 to R129): which of its four
answers a step gives, and the rules about every step: totality, the report of an unrecognised word, the halted machine, the
fatal step, and PC. -/

namespace Sys2Proof.Machine

/-! ### One lemma per answer of a step -/

theorem step_of_halt {s : State} (h : s.halt = true) : step s = .next s := by
  rcases step_cases s with ⟨-, e⟩ | ⟨h', -⟩ | ⟨h', -⟩ | ⟨h', -⟩
  · exact e
  all_goals rw [h] at h'; cases h'

theorem step_of_fetchFails {s : State} (h : s.halt = false) (hp : 4095 ≤ s.pc.toNat) :
    fetchDecode s = .fatal (s.raiseFatal .outOfBoundsMemory) ∧ step s = .next (s.raiseFatal .outOfBoundsMemory) := by
  rcases fetchDecode_cases s with ⟨h', -⟩ | ⟨-, -, e⟩ | ⟨-, hp', -⟩ | ⟨-, hp', -⟩
  · rw [h] at h'; cases h'
  · exact ⟨e, by simp [step, e]⟩
  all_goals omega

theorem step_of_decode {s : State} {i : Instr} (h : CanFetch s) (hd : decodeWord s.wordAtPc = .ok i) :
    step s = exec i (s.setOpcode s.wordAtPc) := by
  obtain ⟨hhalt, hp⟩ := h
  rcases step_cases s with ⟨h', -⟩ | ⟨-, hp', -⟩ | ⟨-, -, ⟨e, he⟩, -⟩ | ⟨-, -, j, hj, hexec⟩
  · rw [hhalt] at h'; cases h'
  · omega
  · rw [hd] at he; cases he
  · rw [hd] at hj; cases hj; exact hexec

theorem step_of_invalidOpcode {s : State} (h : s.invalidOpcode = true) : step s = .next (s.setOpcode s.wordAtPc) := by
  obtain ⟨⟨hhalt, hp⟩, e, he⟩ := (invalidOpcode_iff s).mp h
  rcases step_cases s with ⟨h', -⟩ | ⟨-, hp', -⟩ | ⟨-, -, -, hstep⟩ | ⟨-, -, j, hj, -⟩
  · rw [hhalt] at h'; cases h'
  · omega
  · exact hstep
  · rw [he] at hj; cases hj

/-- Everything a step can have done that answers `t`: nothing, a fatal fetch, the report of an unrecognised word, a fatal
instruction, or an instruction completed. -/
theorem step_next_cases {s t : State} (h : step s = .next t) :
    (s.halt = true ∧ t = s) ∨
    (s.halt = false ∧ 4095 ≤ s.pc.toNat ∧ t = s.raiseFatal .outOfBoundsMemory) ∨
    (s.halt = false ∧ s.pc.toNat ≤ 4094 ∧ t = s.setOpcode s.wordAtPc) ∨
    (s.halt = false ∧ s.pc.toNat ≤ 4094 ∧ ∃ c, t = (s.setOpcode s.wordAtPc).raiseFatal c) ∨
    (s.halt = false ∧ s.pc.toNat ≤ 4094 ∧ ∃ i, decodeWord s.wordAtPc = .ok i ∧
      fatalCause i (s.setOpcode s.wordAtPc) = none ∧ exec i (s.setOpcode s.wordAtPc) = .next t ∧
      Completes i (s.setOpcode s.wordAtPc) t) := by
  rcases step_cases s with ⟨hhalt, e⟩ | ⟨hhalt, hp, e⟩ | ⟨hhalt, hp, -, e⟩ | ⟨hhalt, hp, i, hd, e⟩ <;> rw [e] at h
  · cases h; exact .inl ⟨hhalt, rfl⟩
  · cases h; exact .inr (.inl ⟨hhalt, hp, rfl⟩)
  · cases h; exact .inr (.inr (.inl ⟨hhalt, hp, rfl⟩))
  · rcases exec_cases i (s.setOpcode s.wordAtPc) with ⟨c, -, hexec⟩ | ⟨hnone, u, hexec, hcompletes⟩
    · rw [hexec] at h
      cases h
      exact .inr (.inr (.inr (.inl ⟨hhalt, hp, c, rfl⟩)))
    · obtain rfl : u = t := by rw [hexec] at h; cases h; rfl
      exact .inr (.inr (.inr (.inr ⟨hhalt, hp, i, hd, hnone, hexec, hcompletes⟩)))

/-- The word at PC is the one a fetch of it reads. -/
theorem fetchesWord_wordAtPc (s : State) : FetchesWord s s.wordAtPc.toNat := (fetchesWord_iff s _).mpr rfl

/-- Latching a word does not change the word at PC. -/
@[simp] theorem State.wordAtPc_setOpcode (s : State) (w : Word) : (s.setOpcode w).wordAtPc = s.wordAtPc := rfl

/-- A word is unrecognised when it is no instruction. -/
theorem decodeWord_error_iff (w : Word) : (∃ e, decodeWord w = .error e) ↔ ∀ i, decodeWord w ≠ .ok i := by
  cases decodeWord w <;> simp

/-! ### Statements about fetch -/

/-- Settles O7: where the fetch succeeds, both outcomes of decoding have latched the word. -/
theorem fetchReadsTwoBytesBigEndian : Obligations.FetchReadsTwoBytesBigEndian := by
  intro s hhalt
  refine ⟨fun hp => ⟨s.setOpcode s.wordAtPc, ?_, s.wordAtPc_toNat, s.setOpcode_unchangedBut _⟩, fun hp => ?_⟩
  · rcases fetchDecode_cases s with ⟨h, -⟩ | ⟨-, hp', -⟩ | ⟨-, -, -, e⟩ | ⟨-, -, i, -, e⟩
    · rw [hhalt] at h; cases h
    · omega
    · exact .inl e
    · exact .inr ⟨i, e⟩
  · obtain ⟨hfetch, hstep⟩ := step_of_fetchFails hhalt hp
    exact ⟨_, hfetch, hstep, rfl, rfl, s.raiseFatal_unchangedBut _⟩

/-- Settles O8: the word at PC is the one given, and it is recognised. -/
theorem stepRunsTheDecodedInstruction : Obligations.StepRunsTheDecodedInstruction := by
  intro s w i hcan hfetch hd
  obtain rfl := (fetchesWord_iff s w).mp hfetch
  refine ⟨step_of_decode hcan hd, Bool.eq_false_iff.mpr fun hinvalid => ?_⟩
  obtain ⟨-, e, he⟩ := (invalidOpcode_iff s).mp hinvalid
  rw [hd] at he
  cases he

/-! ### Statements about every step -/

/-- Settles O9: an instruction is fatal or completes, and both are next states. -/
theorem everyStepAnswersANextState : Obligations.EveryStepAnswersANextState := by
  have hexec : ∀ (i : Instr) (s : State), ∃ t, exec i s = .next t := fun i s => by
    rcases exec_cases i s with ⟨c, -, h⟩ | ⟨-, t, h, -⟩
    · exact ⟨_, h⟩
    · exact ⟨t, h⟩
  refine ⟨fun s => ?_, hexec⟩
  rcases step_cases s with ⟨-, h⟩ | ⟨-, -, h⟩ | ⟨-, -, -, h⟩ | ⟨-, -, i, -, h⟩
  · exact ⟨_, h⟩
  · exact ⟨_, h⟩
  · exact ⟨_, h⟩
  · rw [h]; exact hexec i _

/-- Settles O10: the report is that of `invalidOpcode_iff`, said of the word fetched, and the step latches that word. -/
theorem unrecognisedWordIsReportedAndChangesNothing : Obligations.UnrecognisedWordIsReportedAndChangesNothing := by
  intro s
  refine ⟨?_, fun h => ?_⟩
  · rw [invalidOpcode_iff, decodeWord_error_iff]
    refine and_congr_right fun _ => ⟨fun h w hw => (fetchesWord_iff s w).mp hw ▸ h, fun h => h _ (fetchesWord_wordAtPc s)⟩
  · obtain ⟨⟨hhalt, -⟩, -⟩ := (invalidOpcode_iff s).mp h
    exact ⟨_, step_of_invalidOpcode h, fetchesWord_wordAtPc s, hhalt, s.setOpcode_unchangedBut _⟩

/-- Three top nibbles are no instruction's (R64, R67). -/
theorem decodeWord_topNibble {w : Word} (h : w.toNat / 4096 = 11 ∨ w.toNat / 4096 = 12 ∨ w.toNat / 4096 = 14) :
    decodeWord w = .error .topNibble := by
  rcases h with hB | hC | hE
  · exact decodeWord_of_op w 11 hB
  · exact decodeWord_of_op w 12 hC
  · exact decodeWord_of_op w 14 hE

/-- Settles O5: the two ranges are the words of those three top nibbles, and their step is the report. -/
theorem topNibblesBCEAreInvalid : Obligations.TopNibblesBCEAreInvalid := by
  intro w hw
  have herror := decodeWord_topNibble (w := w) (by omega)
  refine ⟨(decodeWord_error_iff w).mp ⟨_, herror⟩, fun s hcan hfetch => ?_⟩
  obtain rfl := (fetchesWord_iff s w).mp hfetch
  have hinvalid := (invalidOpcode_iff s).mpr ⟨hcan, _, herror⟩
  exact ⟨hinvalid, _, step_of_invalidOpcode hinvalid, rfl, s.setOpcode_unchangedBut _⟩

/-- The report stays when the word is latched: PC and memory stay. -/
theorem invalidOpcode_setOpcode {s : State} (w : Word) (h : s.invalidOpcode = true) :
    (s.setOpcode w).invalidOpcode = true := by
  rw [invalidOpcode_iff] at h ⊢
  exact h

/-- Settles O11, by induction on the number of steps: the first step latches the word, and the report stays. -/
theorem unrecognisedWordRepeatsForEver : Obligations.UnrecognisedWordRepeatsForEver := by
  intro s h k
  induction k generalizing s with
  | zero => exact ⟨s, run_zero s, h, (s.setOpcode_unchangedBut s.opcode)⟩
  | succ k ih =>
    obtain ⟨t, hrun, ht, hframe⟩ := ih _ (invalidOpcode_setOpcode s.wordAtPc h)
    refine ⟨t, ?_, ht, ((s.setOpcode_unchangedBut _).trans hframe).mono (by simp)⟩
    rw [run_succ _ _ _ (step_of_invalidOpcode h), hrun]

/-- The host's write of DT, when it is accepted, is a write of DT. -/
theorem lowerDt_eq_next {b : Timer} {s t : State} (h : lowerDt b s = .next t) : t = s.setDt b := by
  unfold lowerDt at h
  split at h <;> cases h
  rfl

/-- The host's write of ST, when it is accepted, is a write of ST. -/
theorem lowerSt_eq_next {b : Timer} {s t : State} (h : lowerSt b s = .next t) : t = s.setSt b := by
  unfold lowerSt at h
  split at h <;> cases h
  rfl

/-- Settles O12: a halted state is its own next state, and a timer write leaves it halted. -/
theorem haltedMachineStaysHalted : Obligations.HaltedMachineStaysHalted := by
  intro s hhalt
  refine ⟨fun k => ?_, Bool.eq_false_iff.mpr fun h => ?_, fun b t h => ?_, fun b t h => ?_⟩
  · induction k with
    | zero => exact run_zero s
    | succ k ih => rw [run_succ _ _ _ (step_of_halt hhalt), ih]
  · obtain ⟨⟨hrunning, -⟩, -⟩ := (invalidOpcode_iff s).mp h
    rw [hhalt] at hrunning
    cases hrunning
  · obtain rfl := lowerDt_eq_next h
    exact ⟨s.setDt_unchangedBut b, step_of_halt hhalt⟩
  · obtain rfl := lowerSt_eq_next h
    exact ⟨s.setSt_unchangedBut b, step_of_halt hhalt⟩

/-- Settles O13: a step that halts is a fatal fetch or a fatal instruction; nothing else sets HALT. -/
theorem fatalStepChangesOnlyHaltAndCause : Obligations.FatalStepChangesOnlyHaltAndCause := by
  intro s t hhalt hstep ht
  rcases step_next_cases hstep with ⟨h, -⟩ | ⟨-, hp, rfl⟩ | ⟨-, -, rfl⟩ | ⟨-, hp, c, rfl⟩ | ⟨-, -, i, -, -, -, hcompletes⟩
  · rw [hhalt] at h; cases h
  · exact ⟨(s.raiseFatal_unchangedBut _).mono (by simp), fun _ => rfl, fun _ => by omega⟩
  · rw [State.setOpcode_halt, hhalt] at ht; cases ht
  · exact ⟨((s.setOpcode_unchangedBut _).trans (State.raiseFatal_unchangedBut _ c)).mono (by simp),
      fun _ => by omega, fun _ => fetchesWord_wordAtPc s⟩
  · rw [hcompletes.halt_eq, State.setOpcode_halt, hhalt] at ht; cases ht

/-- Settles O14: `exec_cases` with the code of the cause, and the fetch by its bound. -/
theorem fatalExactlyInTheListedCases : Obligations.FatalExactlyInTheListedCases := by
  refine ⟨fun i s hhalt => ?_, fun s hhalt => ⟨?_, fun hp => ?_⟩⟩
  · rcases exec_cases i s with ⟨c, hc, hexec⟩ | ⟨hnone, t, hexec, hcompletes⟩
    · refine ⟨_, hexec, ?_, fun _ _ => ⟨rfl, s.raiseFatal_unchangedBut c⟩, ?_⟩
      · rw [hc]
        exact fun h => by cases h
      · simp only [hc, Option.some.injEq]
        exact ⟨fun h => h ▸ rfl, fun h => h ▸ rfl, fun h => h ▸ rfl, fun h => h ▸ rfl, fun h => h ▸ rfl⟩
    · refine ⟨t, hexec, fun _ => ⟨hcompletes.halt_eq.trans hhalt, hcompletes.cause_eq⟩, ?_⟩
      simp [hnone]
  · rintro ⟨t, hfetch, -⟩
    rcases fetchDecode_cases s with ⟨-, e⟩ | ⟨-, hp, -⟩ | ⟨-, -, -, e⟩ | ⟨-, -, i, -, e⟩
    · rw [e] at hfetch; cases hfetch
    · omega
    · rw [e] at hfetch; cases hfetch
    · rw [e] at hfetch; cases hfetch
  · obtain ⟨hfetch, hstep⟩ := step_of_fetchFails hhalt (by omega)
    exact ⟨_, hfetch, hstep, rfl, rfl⟩

/-- Settles O25: a completed instruction leaves `nextPc`, which below 4095 does not wrap, and every other step keeps PC. -/
theorem pcAfterEachInstruction : Obligations.PcAfterEachInstruction := by
  refine ⟨fun i s ⟨_, hp⟩ hstack => ?_, fun s h => ⟨_, step_of_invalidOpcode h, rfl⟩,
    fun s hhalt hp => ⟨_, (step_of_fetchFails hhalt hp).2, rfl⟩⟩
  rcases exec_cases i s with ⟨c, hc, hexec⟩ | ⟨hnone, t, hexec, hcompletes⟩
  · refine ⟨_, hexec, ?_⟩
    rw [hc, if_pos Option.isSome_some, State.raiseFatal_pc]
  · refine ⟨t, hexec, ?_⟩
    rw [hnone, if_neg (by simp)]
    have hpc := congrArg BitVec.toNat hcompletes.pc
    cases i with
    | jp nnn | call nnn => exact hpc.trans (pcOfAddress_toNat nnn)
    | ret =>
      intro k hk
      obtain ⟨j, hj⟩ := fatalCause_ret_none hnone
      obtain rfl : k = j := by
        rw [State.spInt_of_some s j hj] at hk
        exact Fin.ext (by omega)
      rw [hpc, nextPc, hj]
      exact pc_add_toNat (hstack k) 2#16 (by decide)
    | seImm x kk => simpa [nextPc, State.skipIf_pc_toNat hp] using hpc
    | sneImm x kk => simpa [nextPc, State.skipIf_pc_toNat hp] using hpc
    | seReg x y z => simpa [nextPc, State.skipIf_pc_toNat hp] using hpc
    | sneReg x y z => simpa [nextPc, State.skipIf_pc_toNat hp] using hpc
    | _ => exact hpc.trans (pc_add_toNat hp 2#16 (by decide))

/-! ### Timers (R28, R134) -/

/-- The word of an instruction that a step runs is the instruction's encoding. -/
theorem fetchesWord_encode {s : State} {i : Instr} (hd : decodeWord s.wordAtPc = .ok i) :
    FetchesWord s (encode i).toNat := by
  rw [encodeOfDecodeIsTheWord _ _ hd]
  exact fetchesWord_wordAtPc s

/-- A word Fxkk as a number. -/
theorem wordXK_15_toNat (x : RegIdx) (kk : Byte) : (wordXK 0xF x kk).toNat = 0xF000 + kk.toNat + 0x100 * x.val := by
  rw [wordXK_toNat _ _ _ (by decide)]
  omega

/-- Settles O51: a step that is no completed instruction leaves both timers alone, and among those the timer writes alone
write a timer. -/
theorem timersChangeOnlyByTheirInstruction : Obligations.TimersChangeOnlyByTheirInstruction := by
  intro s t hstep
  rcases step_next_cases hstep with ⟨-, rfl⟩ | ⟨-, -, rfl⟩ | ⟨-, -, rfl⟩ | ⟨-, -, c, rfl⟩ |
    ⟨-, -, i, hd, -, hexec, hcompletes⟩
  case inr.inr.inr.inr =>
    have hfetch := fetchesWord_encode hd
    refine ⟨fun hdt => ?_, fun hst => ?_⟩
    · by_cases hi : ∃ x, i = .ldDtVx x
      · obtain ⟨x, rfl⟩ := hi
        rw [exec_ldDtVx] at hexec
        cases hexec
        exact ⟨x, wordXK_15_toNat x 0x15#8 ▸ hfetch, rfl⟩
      · exact absurd (hcompletes.dt_eq fun x h => hi ⟨x, h⟩) hdt
    · by_cases hi : ∃ x, i = .ldStVx x
      · obtain ⟨x, rfl⟩ := hi
        rw [exec_ldStVx] at hexec
        cases hexec
        exact ⟨x, wordXK_15_toNat x 0x18#8 ▸ hfetch, rfl⟩
      · exact absurd (hcompletes.st_eq fun x h => hi ⟨x, h⟩) hst
  all_goals exact ⟨fun hdt => absurd rfl hdt, fun hst => absurd rfl hst⟩

end Sys2Proof.Machine
end

section
/-! PROOF. The invariant (10_state.md R23, R27, R32, R36; 60_exceptions.md R123): it holds at reset, every step and every
action of the host keeps it, so it holds of every reachable state. -/

namespace Sys2Proof.Machine

theorem State.reset_stackAt (k : StackIdx) : State.reset.stackAt k = 0 := by
  simp [State.stackAt, State.reset]

/-- Settles O15: every piece of the reset state is given (R35). -/
theorem invariantHoldsAtReset : Obligations.InvariantHoldsAtReset where
  memCanonical := reset_mem_wf
  pcBound := by decide
  stackBound k := by rw [State.reset_stackAt]; decide
  running _ := rfl
  stopped h := by cases h

/-- The cause code of a fatal condition is 1 to 5 (R123). -/
theorem Cause.code_range (c : Cause) : 1 ≤ c.code.toNat ∧ c.code.toNat ≤ 5 := by
  cases c
  all_goals decide

/-- A fatal condition keeps the invariant (R122, R123). -/
theorem Inv.raiseFatal {s : State} (h : Inv s) (c : Cause) : Inv (s.raiseFatal c) where
  memCanonical := h.memCanonical
  pcBound := h.pcBound
  stackBound := h.stackBound
  running hrunning := by cases hrunning
  stopped _ := c.code_range

/-- Latching a word keeps the invariant. -/
theorem Inv.setOpcode {s : State} (h : Inv s) (w : Word) : Inv (s.setOpcode w) :=
  ⟨h.memCanonical, h.pcBound, h.stackBound, h.running, h.stopped⟩

/-- A write of DT keeps the invariant. -/
theorem Inv.setDt {s : State} (h : Inv s) (b : Timer) : Inv (s.setDt b) :=
  ⟨h.memCanonical, h.pcBound, h.stackBound, h.running, h.stopped⟩

/-- A write of ST keeps the invariant. -/
theorem Inv.setSt {s : State} (h : Inv s) (b : Timer) : Inv (s.setSt b) :=
  ⟨h.memCanonical, h.pcBound, h.stackBound, h.running, h.stopped⟩

/-- A store inside the address space keeps the invariant. -/
theorem Inv.storeBytes {s : State} (h : Inv s) {a : Nat} {bs : List Byte} (hbound : a + bs.length ≤ 4096) :
    Inv (s.storeBytes a bs) :=
  ⟨Memory.wf_writeBytes bs s.mem a hbound h.memCanonical, h.pcBound, h.stackBound, h.running, h.stopped⟩

/-- A call pushes an address that was fetched from, so at most 4094; no other instruction writes the stack (R23, R26). -/
theorem exec_stackBound {i : Instr} {s t : State} (hp : s.pc.toNat ≤ 4094) (hstack : ∀ k, (s.stackAt k).toNat ≤ 4094)
    (hnone : fatalCause i s = none) (hexec : exec i s = .next t) (hcompletes : Completes i s t) (k : StackIdx) :
    (t.stackAt k).toNat ≤ 4094 := by
  by_cases hi : ∃ nnn, i = .call nnn
  · obtain ⟨nnn, rfl⟩ := hi
    obtain ⟨j, hj⟩ := fatalCause_call_none hnone
    rw [exec_call nnn hj] at hexec
    cases hexec
    rw [State.stackAt_setPc]
    by_cases hkj : k = j
    · rw [hkj, State.stackAt_setStackAt_self]
      exact hp
    · rw [State.stackAt_setStackAt_ne _ _ _ _ hkj]
      exact hstack k
  · rw [hcompletes.stackAt_eq fun nnn h => hi ⟨nnn, h⟩]
    exact hstack k

/-- An instruction completed where it can be fetched keeps the invariant. -/
theorem Inv.completes {i : Instr} {s t : State} (h : Inv s) (hp : s.pc.toNat ≤ 4094) (hnone : fatalCause i s = none)
    (hexec : exec i s = .next t) (hcompletes : Completes i s t) : Inv t where
  memCanonical := hcompletes.memCanonical h.memCanonical
  pcBound := hcompletes.pc ▸ nextPc_le i hp h.stackBound
  stackBound := exec_stackBound hp h.stackBound hnone hexec hcompletes
  running hrunning := hcompletes.cause_eq.trans (h.running (hcompletes.halt_eq ▸ hrunning))
  stopped hstopped := hcompletes.cause_eq ▸ h.stopped (hcompletes.halt_eq ▸ hstopped)

/-- Settles O16: each thing a step can do keeps the invariant. -/
theorem everyStepKeepsTheInvariant : Obligations.EveryStepKeepsTheInvariant := by
  intro s t h hstep
  rcases step_next_cases hstep with ⟨-, rfl⟩ | ⟨-, -, rfl⟩ | ⟨-, -, rfl⟩ | ⟨-, -, c, rfl⟩ |
    ⟨-, hp, i, -, hnone, hexec, hcompletes⟩
  · exact h
  · exact h.raiseFatal _
  · exact h.setOpcode _
  · exact (h.setOpcode _).raiseFatal c
  · exact (h.setOpcode s.wordAtPc).completes hp hnone hexec hcompletes

/-- A launch stores an image that fits (R141). -/
theorem load_eq_next {image : List Byte} {s t : State} (h : load image s = .next t) :
    image.length ≤ 3584 ∧ t = s.storeBytes 0x200 image := by
  unfold load at h
  split at h
  · cases h
  · split at h
    · cases h
    · next hlen => cases h; exact ⟨Nat.not_lt.mp hlen, rfl⟩

/-- Every reachable state has the invariant. -/
theorem Reachable.inv {s : State} (h : Reachable s) : Inv s := by
  induction h with
  | launch image s hload =>
    obtain ⟨hlen, rfl⟩ := load_eq_next hload
    exact invariantHoldsAtReset.storeBytes (by omega)
  | step s t _ hstep ih => exact everyStepKeepsTheInvariant s t ih hstep
  | timerDt s t b _ hlower ih => exact lowerDt_eq_next hlower ▸ ih.setDt b
  | timerSt s t b _ hlower ih => exact lowerSt_eq_next hlower ▸ ih.setSt b

/-- Settles O17: PC, the stack and memory by the invariant, the other ranges by the widths of R10. -/
theorem reachableStatesAreInRange : Obligations.ReachableStatesAreInRange := by
  intro s hreach
  have h := hreach.inv
  exact ⟨h.pcBound, s.spInt_range.1, s.spInt_range.2, h.stackBound, fun r => Nat.le_of_lt_succ (s.getV r).isLt,
    Nat.le_of_lt_succ s.dt.isLt, Nat.le_of_lt_succ s.st.isLt, Nat.le_of_lt_succ s.i.isLt, h.memCanonical, step_of_halt⟩

/-! ### Canonical memories (R33) -/

theorem Memory.wfFrom_cons {lo k : Nat} {b : Byte} {m : Memory} (h : Memory.wfFrom lo ((k, b) :: m) = true) :
    lo ≤ k ∧ b ≠ Config.resetByte k ∧ Memory.wfFrom (k + 1) m = true := by
  simp only [Memory.wfFrom, Bool.and_eq_true, decide_eq_true_eq, bne_iff_ne] at h
  obtain ⟨⟨⟨hlo, -⟩, hb⟩, hm⟩ := h
  exact ⟨hlo, hb, hm⟩

/-- The cells of a memory lie at or above the first. -/
theorem Memory.wfFrom_of_le_head {lo lo' k : Nat} {b : Byte} {m : Memory} (h : Memory.wfFrom lo ((k, b) :: m) = true)
    (hle : lo' ≤ k) : Memory.wfFrom lo' ((k, b) :: m) = true := by
  simp only [Memory.wfFrom, Bool.and_eq_true, decide_eq_true_eq] at h ⊢
  obtain ⟨⟨⟨-, hsize⟩, hb⟩, hm⟩ := h
  exact ⟨⟨⟨hle, hsize⟩, hb⟩, hm⟩

/-- A memory whose cells lie at `lo` or above reads as the reset contents below `lo`. -/
theorem Memory.read_below {m : Memory} {lo a : Nat} (h : Memory.wfFrom lo m = true) (ha : a < lo) :
    m.read a = Config.resetByte a := by
  induction m generalizing lo with
  | nil => rfl
  | cons c m ih =>
    obtain ⟨k, b⟩ := c
    obtain ⟨hlo, -, hm⟩ := Memory.wfFrom_cons h
    rw [Memory.read, if_neg (by omega), ih hm (by omega)]

/-- The first cell of a canonical memory is told apart from every memory with no cell at or below it. -/
theorem Memory.read_head_ne {lo k : Nat} {b : Byte} {m m' : Memory} (h : Memory.wfFrom lo ((k, b) :: m) = true)
    (h' : Memory.wfFrom (k + 1) m' = true) : Memory.read ((k, b) :: m) k ≠ m'.read k := by
  obtain ⟨-, hb, -⟩ := Memory.wfFrom_cons h
  rw [Memory.read_below h' (Nat.lt_succ_self k), Memory.read, if_pos rfl]
  exact hb

/-- Canonical memories that read alike are equal, cell by cell. -/
theorem Memory.eq_of_read_eq {m m' : Memory} {lo : Nat} (h : Memory.wfFrom lo m = true) (h' : Memory.wfFrom lo m' = true)
    (hread : ∀ a, m.read a = m'.read a) : m = m' := by
  induction m generalizing m' lo with
  | nil =>
    cases m' with
    | nil => rfl
    | cons c' m' => exact absurd (hread c'.1).symm (Memory.read_head_ne h' rfl)
  | cons c m ih =>
    obtain ⟨k, b⟩ := c
    obtain ⟨hlo, -, hm⟩ := Memory.wfFrom_cons h
    cases m' with
    | nil => exact absurd (hread k) (Memory.read_head_ne h rfl)
    | cons c' m' =>
      obtain ⟨k', b'⟩ := c'
      obtain ⟨-, -, hm'⟩ := Memory.wfFrom_cons h'
      rcases Nat.lt_trichotomy k k' with hlt | rfl | hlt
      · exact absurd (hread k) (Memory.read_head_ne h (Memory.wfFrom_of_le_head h' hlt))
      · have hbb : b = b' := by simpa [Memory.read] using hread k
        refine congrArg₂ List.cons (by rw [hbb]) (ih hm hm' fun a => ?_)
        rcases Nat.lt_or_ge k a with ha | ha
        · simpa [Memory.read, ha.ne] using hread a
        · rw [Memory.read_below hm (by omega), Memory.read_below hm' (by omega)]
      · exact absurd (hread k').symm (Memory.read_head_ne h' (Memory.wfFrom_of_le_head h hlt))

/-- Settles O18: the canonical form is that of cells at 0 or above. -/
theorem memoryThatReadsAlikeIsEqual : Obligations.MemoryThatReadsAlikeIsEqual := fun _ _ => Memory.eq_of_read_eq

end Sys2Proof.Machine
end

section
/-! PROOF. The host's operations (00_scope.md R6): `Reset`, `Load`, `HostTimerWrite` and `ReadFB`; the word placed for the
next fetch (20_memory.md R42, R43); and the resting state (70_reset_and_hazards.md R146). -/

namespace Sys2Proof.Machine

/-! ### Reset (R35, R139) -/

/-- The reset memory reads as the reset contents. -/
theorem State.reset_readByte (a : Nat) : State.reset.readByte a = Config.resetByte a := rfl

/-- The font is what the first 80 addresses hold at reset (R50, R140). -/
theorem Config.font_getElem? {a : Nat} (ha : a < 80) : Config.font[a]? = some (Config.resetByte a) := by
  have hlen : a < Config.font.length := ha
  simp [Config.resetByte, hlen]

/-- A framebuffer of zeroes reads as zero at every index, the ones past the end too (log 20). -/
theorem fbByte_replicate_zero (k : Nat) : fbByte (Vector.replicate Config.fbBytes 0) k = 0 := by
  rcases Nat.lt_or_ge k 256 with hk | hk
  · exact fbByte_replicate 0 hk
  · rw [fbByte, Vector.getElem?_eq_none hk, Option.getD_none]

/-- Settles O19: each piece is the one `State.reset` gives. -/
theorem resetLeavesTheStatedValues : Obligations.ResetLeavesTheStatedValues := by
  refine ⟨fun _ => rfl, fun r => ?_, rfl, rfl, rfl, State.reset_stackAt, rfl, rfl, fbByte_replicate_zero, rfl, rfl, rfl,
    rfl, fun a ha => ?_, fun a ha => ?_, by decide⟩
  · simp [State.getV, State.reset]
  · rw [State.reset_readByte, Config.font_getElem? ha]
  · rw [State.reset_readByte, Config.resetByte_above_font a ha]

/-! ### Load (R141) -/

theorem load_reset {image : List Byte} (h : image.length ≤ 3584) :
    load image State.reset = .next (State.reset.storeBytes 0x200 image) := by
  have hlen : ¬ image.length > Config.maxImage := Nat.not_lt.mpr h
  rw [load, if_neg (not_not_intro rfl), if_neg hlen]

/-- Settles O20: a launch is one store of the image at 0x200. -/
theorem loadCopiesTheImage : Obligations.LoadCopiesTheImage := by
  refine ⟨fun image h => ⟨_, load_reset h, fun k hk => ?_, fun a ha => ?_, State.reset.storeBytes_unchangedBut _ _⟩,
    fun image h => ?_, fun image s h => ?_⟩
  · exact Memory.read_writeBytes_inside image _ _ k hk
  · exact Memory.read_writeBytes_outside image _ _ a ha
  · have hlen : image.length > Config.maxImage := h
    rw [load, if_neg (not_not_intro rfl), if_pos hlen]
  · rw [load, if_pos h]

/-! ### HostTimerWrite (R134) -/

/-- Settles O21: the write is accepted exactly below the timer, and then it is a write of that timer. -/
theorem hostTimerWriteOnlyLowers : Obligations.HostTimerWriteOnlyLowers := by
  intro s b
  refine ⟨fun h => ⟨_, if_neg (Nat.not_lt.mpr h), rfl, s.setDt_unchangedBut b⟩, fun h t ht => ?_,
    fun h => ⟨_, if_neg (Nat.not_lt.mpr h), rfl, s.setSt_unchangedBut b⟩, fun h t ht => ?_⟩
  · rw [lowerDt, if_pos h] at ht
    cases ht
  · rw [lowerSt, if_pos h] at ht
    cases ht

/-! ### ReadFB (R29, R30) -/

theorem bytePixels_length (b : Byte) : (bytePixels b).length = 8 := by simp [bytePixels]

/-- Eight pixels of every byte. -/
theorem length_flatMap_bytePixels (bs : List Byte) : (bs.flatMap bytePixels).length = 8 * bs.length := by
  induction bs with
  | nil => rfl
  | cons b bs ih =>
    rw [List.flatMap_cons, List.length_append, bytePixels_length, ih, List.length_cons]
    omega

/-- Pixel 8 i + j is bit 7 − j of byte i. -/
theorem getElem?_flatMap_bytePixels (bs : List Byte) (i : Nat) {j : Nat} (hj : j < 8) :
    (bs.flatMap bytePixels)[8 * i + j]? = bs[i]?.map (·.getLsbD (7 - j)) := by
  induction bs generalizing i with
  | nil => rfl
  | cons b bs ih =>
    rw [List.flatMap_cons]
    cases i with
    | zero =>
      rw [List.getElem?_append_left (by rw [bytePixels_length]; omega)]
      simp [bytePixels, hj]
    | succ i =>
      rw [List.getElem?_append_right (by rw [bytePixels_length]; omega), bytePixels_length,
        show 8 * (i + 1) + j - 8 = 8 * i + j by omega, ih, List.getElem?_cons_succ]

theorem readFb_getElem? (s : State) {k : Nat} (hk : k < 256) : (readFb s)[k]? = some (fbByte s.fb k) := by
  have hin : k < Config.fbBytes := hk
  simp [readFb, fbByte, hin]

/-- Settles O22: pixel 64 r + c is pixel c mod 8 of byte 8 r + c div 8. -/
theorem readFbIsRowMajor : Obligations.ReadFbIsRowMajor := by
  intro s
  have hlen : (readFb s).length = 256 := s.fb.length_toList
  refine ⟨hlen, ?_, fun k => readFb_getElem? s, fun c r hc hr => ?_⟩
  · rw [readPixels, length_flatMap_bytePixels, hlen]
  · rw [readPixels, show 64 * r + c = 8 * (8 * r + c / 8) + c % 8 by omega,
      getElem?_flatMap_bytePixels _ _ (by omega), readFb_getElem? s (by omega), Option.map_some]

/-! ### The word placed for the next fetch (R42, R43) -/

/-- A state that can fetch is ready as it is (log 18). -/
theorem State.readyToFetch_eq {s : State} (h : CanFetch s) : s.readyToFetch = s := by
  obtain ⟨hhalt, hp⟩ := h
  have hfails : s.fetchFails = false :=
    Bool.eq_false_iff.mpr fun hf => by have := s.fetchFails_iff.mp hf; omega
  apply State.ext_fields
  all_goals simp [State.readyToFetch, hhalt, hfails]

theorem State.withFetchWord_eq {s : State} {w : Nat} (h : CanFetch s) (hw : w < 65536) :
    s.withFetchWord 16 w = s.placeWordAtPc (BitVec.ofNat 16 w) := by
  rw [State.withFetchWord, State.readyToFetch_eq h, Nat.mod_eq_of_lt (b := 2 ^ 16) hw]

/-- The word placed at PC is the word at PC. -/
theorem State.wordAtPc_placeWordAtPc (s : State) (w : Word) : (s.placeWordAtPc w).wordAtPc = w := by
  have hhi : (s.placeWordAtPc w).readByte s.pc.toNat = highByte w :=
    Memory.read_writeBytes_inside [highByte w, lowByte w] s.mem _ 0 (by simp)
  have hlo : (s.placeWordAtPc w).readByte (s.pc.toNat + 1) = lowByte w :=
    Memory.read_writeBytes_inside [highByte w, lowByte w] s.mem _ 1 (by simp)
  rw [State.wordAtPc, show (s.placeWordAtPc w).pc = s.pc from rfl, hhi, hlo, wordOfBytes_high_low]

/-- The host's view of a table word is the decoder's. -/
theorem decodeTableWord_eq_some {w : Nat} {i : Instr} (hw : w < 65536) (h : decodeTableWord 16 w = some i) :
    decodeWord (BitVec.ofNat 16 w) = .ok i := by
  rw [decodeTableWord, Nat.mod_eq_of_lt (b := 2 ^ 16) hw, decode, wordOfBytes_high_low] at h
  cases hd : decodeWord (BitVec.ofNat 16 w) with
  | ok j => simp_all
  | error e => simp_all

/-- Settles O23: placing the word is a store of its two bytes at PC, and they are the word a fetch reads. -/
theorem placedWordRunsNext : Obligations.PlacedWordRunsNext := by
  intro s w i hcan hw hi
  rw [State.withFetchWord_eq hcan hw]
  refine ⟨?_, s.storeBytes_unchangedBut _ _, fun a h0 h1 => ?_⟩
  · have hword := s.wordAtPc_placeWordAtPc (BitVec.ofNat 16 w)
    have hstep := step_of_decode (s := s.placeWordAtPc (BitVec.ofNat 16 w)) hcan
      (by rw [hword]; exact decodeTableWord_eq_some hw hi)
    rwa [hword] at hstep
  · refine Memory.read_writeBytes_outside _ s.mem _ a ?_
    simp only [List.length_cons, List.length_nil]
    omega

/-! ### The resting state (R146) -/

/-- Settles O27: the word at PC is the jump to PC, so the step latches the word and writes PC with itself. -/
theorem restingStateStays : Obligations.RestingStateStays := by
  intro s hrest
  obtain ⟨hcan, hfetch⟩ := hrest
  have hword : s.wordAtPc.toNat = 0x1000 + s.pc.toNat := s.wordAtPc_toNat.trans hfetch
  have hlt := s.wordAtPc.isLt
  have hp := hcan.2
  have htarget : (BitVec.ofNat 12 s.pc.toNat).toNat = s.pc.toNat := by
    rw [BitVec.toNat_ofNat]
    omega
  have hself : pcOfAddress (BitVec.ofNat 12 s.pc.toNat) = s.pc :=
    BitVec.eq_of_toNat_eq (by rw [pcOfAddress_toNat, htarget])
  have henc : s.wordAtPc = encode (.jp (BitVec.ofNat 12 s.pc.toNat)) := by
    apply BitVec.eq_of_toNat_eq
    rw [hword, encode, wordA_toNat _ _ (by decide), htarget]
  have hstep := step_of_decode hcan (by rw [henc]; exact decodeWord_encode _)
  rw [exec_jp, hself] at hstep
  exact ⟨s.setOpcode s.wordAtPc, hstep, ⟨hcan, hfetch⟩, hword, s.setOpcode_unchangedBut _⟩

end Sys2Proof.Machine
end

section
/-! PROOF. The call, the return and the skips on two registers (40_flow.md R73, R75, R78, R79). -/

namespace Sys2Proof.Machine

/-- The fatal answer as the statements say it: HALT, the code of the cause, and nothing else (R122 to R124). -/
theorem exec_fatal {i : Instr} {s : State} {c : Cause} (h : fatalCause i s = some c) :
    ∃ t, exec i s = .next t ∧ t.halt = true ∧ t.cause.toNat = c.code.toNat ∧ UnchangedBut [.halt, .cause] s t :=
  ⟨_, exec_of_fatalCause h, rfl, rfl, s.raiseFatal_unchangedBut c⟩

/-! ### The call stack -/

/-- The slot a call pushes into is the one above SP (R75). -/
theorem slotAbove_of_spInt_ne {s : State} (h : s.spInt ≠ 15) :
    ∃ k, slotAbove s.sp = some k ∧ (k.val : Int) = s.spInt + 1 := by
  cases hk : slotAbove s.sp with
  | none => exact absurd ((slotAbove_eq_none s).mp hk) h
  | some k => exact ⟨k, rfl, slotAbove_eq_some s k hk⟩

/-- The slot a return pops from is the one SP points to (R73). -/
theorem sp_of_spInt_ne {s : State} (h : s.spInt ≠ -1) : ∃ k, s.sp = some k ∧ s.spInt = k.val := by
  cases hk : s.sp with
  | none => exact absurd (s.spInt_of_none hk) h
  | some k => exact ⟨k, rfl, s.spInt_of_some k hk⟩

/-- A pop from the slot a push took brings SP back (R27). -/
theorem spBelow_slotAbove {p : Option StackIdx} {k : StackIdx} (h : slotAbove p = some k) : spBelow k = p := by
  unfold slotAbove at h
  split at h
  · cases h
    rfl
  · split at h
    · cases h
      simp [spBelow]
    · cases h

/-- A push writes the slot above SP, and reads of the other entries give what they gave. -/
theorem State.stackAt_setStackAt (s : State) (j k : StackIdx) (a : StackWord) :
    (s.setStackAt k a).stackAt j = if j = k then a else s.stackAt j := by
  split
  · next h => rw [h, State.stackAt_setStackAt_self]
  · next h => exact State.stackAt_setStackAt_ne _ _ _ _ h

/-- Settles O29: with SP = 15 the fatal answer, else the push of PC into the slot SP + 1. -/
theorem callPushesItsOwnAddress : Obligations.CallPushesItsOwnAddress := by
  intro nnn s
  refine ⟨decodeWord_wordA_call nnn, fun h => exec_fatal (c := .stackOverflow) (if_pos h), fun h => ?_⟩
  obtain ⟨k, hslot, hk⟩ := slotAbove_of_spInt_ne h
  refine ⟨_, exec_call nnn hslot, ?_, pcOfAddress_toNat nnn, fun j => ?_, ?_⟩
  · rw [← hk]
    exact State.spInt_of_some _ k rfl
  · rw [State.stackAt_setPc, State.stackAt_setStackAt, ← hk]
    refine if_congr ⟨fun h => by rw [h], fun h => Fin.ext (by omega)⟩ rfl rfl
  · exact (((s.setSp_unchangedBut _).trans (State.setStackAt_unchangedBut _ _ _)).trans
      (State.setPc_unchangedBut _ _)).mono (by simp)

/-- Settles O30: with SP = −1 the fatal answer, else PC from the entry at SP, which stays. -/
theorem returnGoesPastTheCall : Obligations.ReturnGoesPastTheCall := by
  intro s
  refine ⟨decodeWord_00EE, fun h => exec_fatal (c := .stackUnderflow) (if_pos h), fun h => ?_⟩
  obtain ⟨k, hsp, hk⟩ := sp_of_spInt_ne h
  refine ⟨_, exec_ret hsp, ?_, fun j hj => ?_, ?_⟩
  · rw [spInt_setSp_spBelow, hk]
  · obtain rfl : j = k := Fin.ext (by omega)
    rfl
  · exact (((s.setPc_unchangedBut _).trans (State.advance_unchangedBut _)).trans
      (State.setSp_unchangedBut _ _)).mono (by simp)

/-- Settles O31: the return pops the entry the call pushed, and the entries below it were not written. -/
theorem returnMatchesCall : Obligations.ReturnMatchesCall := by
  intro nnn s h
  obtain ⟨k, hslot, hk⟩ := slotAbove_of_spInt_ne h
  refine ⟨_, _, exec_call nnn hslot, exec_ret (k := k) rfl, ?_, spBelow_slotAbove hslot, fun j hj => ?_, ?_⟩
  · rw [State.setSp_pc, State.advance_pc, State.setPc_pc, State.stackAt_setPc, State.stackAt_setStackAt_self]
    rfl
  · have hjk : j ≠ k := by
      rintro rfl
      omega
    rw [State.stackAt_setSp, State.stackAt_advance, State.stackAt_setPc, State.stackAt_setPc,
      State.stackAt_setStackAt_ne _ _ _ _ hjk, State.stackAt_setSp]
  · intro p hp
    cases p
    case pc | stack => simp at hp
    case sp => exact spBelow_slotAbove hslot
    all_goals simp [Piece.Same]

/-- Settles O34: the skips of `State.skipIf`, for every value of the low nibble. -/
theorem skipOnRegisters : Obligations.SkipOnRegisters := by
  intro x y z s
  refine ⟨decodeWord_wordOfNibbles_seReg x y z, decodeWord_wordOfNibbles_sneReg x y z,
    ⟨_, exec_seReg x y z s, ?_, s.skipIf_unchangedBut _⟩, ⟨_, exec_sneReg x y z s, ?_, s.skipIf_unchangedBut _⟩⟩
  · rw [State.skipIf_pc]
    simp only [beq_iff_eq, BitVec.toNat_inj]
  · rw [State.skipIf_pc]
    simp only [bne_iff_ne, BitVec.toNat_inj, ite_not]

end Sys2Proof.Machine
end

section
/-! PROOF. Arithmetic with a flag (41_alu.md R83, R90 to R94). The five instructions write VF, then Vx, and advance: their
clauses about the registers, PC and the frame are one lemma (`exec_next_of_setFlag_setV_advance`), and each statement adds
its encoding and the two values. -/

namespace Sys2Proof.Machine

/-- An instruction whose answer is a write of VF, a write of a register and the base increment: VF holds the flag unless it
is itself the destination, where the second write stands (R83). -/
theorem exec_next_of_setFlag_setV_advance {i : Instr} {s : State} {x : RegIdx} {f b : Reg}
    (h : exec i s = .next ((s.setFlag f).setV x b).advance) :
    ∃ t, exec i s = .next t ∧ t.getV x = b ∧ (x ≠ 15 → t.getV 15 = f) ∧
      (∀ r, r ≠ x → r ≠ 15 → t.getV r = s.getV r) ∧ t.pc = s.pc + 2#16 ∧ UnchangedBut [.v, .pc] s t := by
  refine ⟨_, h, ?_, fun hx => ?_, fun r hr h15 => ?_, rfl,
    ((s.setFlag_unchangedBut f).trans (State.setV_advance_unchangedBut _ x b)).mono (by simp)⟩
  · rw [State.getV_advance, State.getV_setV_self]
  · rw [State.getV_advance, State.getV_setV_ne _ x 15 b hx.symm, State.getV_setFlag_vf]
  · rw [State.getV_advance, State.getV_setV_ne _ x r b hr, State.getV_setFlag_ne s r f h15]

/-- An operand read after the flag is written: the flag itself when the operand is VF (R83). -/
theorem State.getV_setFlag_toNat (s : State) (f : Reg) (r : RegIdx) :
    ((s.setFlag f).getV r).toNat = if r = 15 then f.toNat else (s.getV r).toNat := by
  rw [State.getV_setFlag]
  split <;> rfl

/-- The difference of two register values as a number. -/
theorem reg_sub_toNat (a b : Reg) : (a - b).toNat = (256 + a.toNat - b.toNat) % 256 := by
  have := b.isLt
  rw [BitVec.toNat_sub]
  omega

/-- Settles O38: the sum of the old operands, and its carry. -/
theorem addRegistersReportsCarry : Obligations.AddRegistersReportsCarry := by
  intro x y s
  obtain ⟨t, hexec, hvx, hvf, hframe⟩ := exec_next_of_setFlag_setV_advance (exec_addReg x y s)
  refine ⟨decodeWord_8xyk x y 4 (by decide), t, hexec, ?_, fun hx => ?_, hframe⟩
  · rw [hvx, BitVec.toNat_ofNat]
  · rw [hvf hx, carryFlag_toNat]

/-- Settles O39: the difference of the operands as the flag left them. -/
theorem subReportsStrictlyGreater : Obligations.SubReportsStrictlyGreater := by
  intro x y s
  obtain ⟨t, hexec, hvx, hvf, hframe⟩ := exec_next_of_setFlag_setV_advance (exec_sub x y s)
  refine ⟨decodeWord_8xyk x y 5 (by decide), t, _, _, _, hexec, rfl, rfl, rfl, ?_, fun hx => ?_, hframe⟩
  · rw [hvx, reg_sub_toNat, State.getV_setFlag_toNat, State.getV_setFlag_toNat, greaterFlag_toNat]
  · rw [hvf hx, greaterFlag_toNat]

/-- Settles O40: as O39 with the operands in the other order. -/
theorem subnReportsStrictlyGreater : Obligations.SubnReportsStrictlyGreater := by
  intro x y s
  obtain ⟨t, hexec, hvx, hvf, hframe⟩ := exec_next_of_setFlag_setV_advance (exec_subn x y s)
  refine ⟨decodeWord_8xyk x y 7 (by decide), t, _, _, _, hexec, rfl, rfl, rfl, ?_, fun hx => ?_, hframe⟩
  · rw [hvx, reg_sub_toNat, State.getV_setFlag_toNat, State.getV_setFlag_toNat, greaterFlag_toNat]
  · rw [hvf hx, greaterFlag_toNat]

/-- Settles O41: half of the register, or half of a flag, which is 0. -/
theorem shiftRightReportsBitZero : Obligations.ShiftRightReportsBitZero := by
  intro x y s
  obtain ⟨t, hexec, hvx, hvf, hframe⟩ := exec_next_of_setFlag_setV_advance (exec_shr x y s)
  have hhalf : (t.getV x).toNat = (if x = 15 then (s.getV x).toNat % 2 else (s.getV x).toNat) / 2 := by
    rw [hvx, BitVec.toNat_ushiftRight, Nat.shiftRight_eq_div_pow, Nat.pow_one, State.getV_setFlag_toNat,
      lowBitFlag_toNat]
  refine ⟨decodeWord_8xyk x y 6 (by decide), t, hexec, fun hx => ⟨?_, ?_⟩, fun hx => ?_, hframe⟩
  · rw [hhalf, if_neg hx]
  · rw [hvf hx, lowBitFlag_toNat]
  · rw [← hx, hhalf, if_pos hx]
    omega

/-- Settles O42: twice the register modulo 256, or twice the flag. -/
theorem shiftLeftReportsBitZero : Obligations.ShiftLeftReportsBitZero := by
  intro x y s
  obtain ⟨t, hexec, hvx, hvf, hframe⟩ := exec_next_of_setFlag_setV_advance (exec_shl x y s)
  have hdouble : (t.getV x).toNat = 2 * (if x = 15 then (s.getV x).toNat % 2 else (s.getV x).toNat) % 256 := by
    rw [hvx, BitVec.toNat_shiftLeft, Nat.shiftLeft_eq, Nat.pow_one, Nat.mul_comm, State.getV_setFlag_toNat,
      lowBitFlag_toNat]
  refine ⟨decodeWord_8xyk x y 14 (by decide), t, hexec, fun hx => ⟨?_, ?_⟩, fun hx => ?_, hframe⟩
  · rw [hdouble, if_neg hx]
  · rw [hvf hx, lowBitFlag_toNat]
  · rw [← hx, hdouble, if_pos hx]
    omega

end Sys2Proof.Machine
end

section
/-! PROOF. Index register and memory (42_index_memory.md R99 to R103), and the fetch of what was stored (20_memory.md R55). -/

namespace Sys2Proof.Machine

/-! ### Runs of bytes -/

/-- A byte of the run stored at `a` is read back. -/
theorem State.readByte_storeBytes_inside (s : State) (a : Nat) {bs : List Byte} {j : Nat} (h : j < bs.length) :
    (s.storeBytes a bs).readByte (a + j) = bs[j] := Memory.read_writeBytes_inside bs s.mem a j h

/-- A byte outside the run stored at `a` stays. -/
theorem State.readByte_storeBytes_outside (s : State) {a c : Nat} {bs : List Byte} (h : c < a ∨ a + bs.length ≤ c) :
    (s.storeBytes a bs).readByte c = s.readByte c := Memory.read_writeBytes_outside bs s.mem a c h

/-- The three digits of a register value as numbers, hundreds first (R101). -/
theorem bcdDigits_eq (b : Reg) : ∃ hundreds tens units : Byte, bcdDigits b = [hundreds, tens, units] ∧
    hundreds.toNat = b.toNat / 100 ∧ tens.toNat = b.toNat / 10 % 10 ∧ units.toNat = b.toNat % 10 := by
  have h := bcdDigits_toNat b
  simp only [bcdDigits, List.map_cons, List.map_nil, List.cons.injEq, and_true] at h
  exact ⟨_, _, _, rfl, h⟩

/-- Storing a run of bytes and advancing changes memory and PC alone. -/
theorem State.storeBytes_advance_unchangedBut (s : State) (a : Nat) (bs : List Byte) :
    UnchangedBut [.mem, .pc] s (s.storeBytes a bs).advance :=
  (s.storeBytes_unchangedBut a bs).trans (State.advance_unchangedBut _)

/-! ### The obligations -/

/-- Settles O44: the 16-bit sum of I and the register zero-extended. -/
theorem addIndexWraps : Obligations.AddIndexWraps := by
  intro x s
  obtain ⟨t, hexec, hi, hframe⟩ := exec_next_of_setI_advance (exec_addI x s)
  exact ⟨decodeWord_Fxkk decodeGroupF_1E x, t, hexec, by rw [hi, BitVec.toNat_add, indexOfReg_toNat], hframe⟩

/-- Settles O45: above 15 the fatal answer, else the glyph at five times the digit, which fits I. -/
theorem glyphAddressOfADigit : Obligations.GlyphAddressOfADigit := by
  intro x s
  refine ⟨decodeWord_Fxkk decodeGroupF_29 x, fun h => exec_fatal (c := .invalidDigit) (if_pos h), fun h => ?_⟩
  obtain ⟨t, hexec, hi, hframe⟩ := exec_next_of_setI_advance (exec_ldF h)
  refine ⟨t, hexec, ?_, hframe⟩
  rw [hi, BitVec.toNat_ofNat]
  omega

/-- Settles O46: with I + 2 out of bounds the fatal answer, else a store of the three digits at I. -/
theorem bcdStoresThreeDigits : Obligations.BcdStoresThreeDigits := by
  intro x s
  refine ⟨decodeWord_Fxkk decodeGroupF_33 x, fun h => exec_fatal (c := .outOfBoundsMemory) (if_pos h), fun h => ?_⟩
  obtain ⟨hundreds, tens, units, hdigits, hhundreds, htens, hunits⟩ := bcdDigits_eq (s.getV x)
  have hexec := exec_ldB (x := x) h
  rw [hdigits] at hexec
  have hbyte : ∀ j (hj : j < 3), (s.storeBytes s.i.toNat [hundreds, tens, units]).advance.readByte (s.ea j) =
      [hundreds, tens, units][j] := fun j hj => s.readByte_storeBytes_inside s.i.toNat hj
  refine ⟨_, hexec, ?_, ?_, ?_, fun a ha => s.readByte_storeBytes_outside ha, rfl,
    s.storeBytes_advance_unchangedBut _ _⟩
  · rw [hbyte 0 (by decide), ← hhundreds]
    rfl
  · rw [hbyte 1 (by decide), ← htens]
    rfl
  · rw [hbyte 2 (by decide), ← hunits]
    rfl

/-- Settles O47: with I + x out of bounds the fatal answer, else a store of V0 to Vx at I. -/
theorem storeRegistersToMemory : Obligations.StoreRegistersToMemory := by
  intro x s
  refine ⟨decodeWord_Fxkk decodeGroupF_55 x, fun h => exec_fatal (c := .outOfBoundsMemory) (if_pos h), fun h => ?_⟩
  refine ⟨_, exec_ldMemVx h, fun k hk => ?_, fun a ha => ?_, rfl, s.storeBytes_advance_unchangedBut _ _⟩
  · have hlen : k.val < (s.regsUpTo x).length := by
      rw [State.regsUpTo_length]
      exact Nat.lt_succ_of_le hk
    exact (s.readByte_storeBytes_inside s.i.toNat hlen).trans (s.regsUpTo_getElem x k.val hlen)
  · refine s.readByte_storeBytes_outside ?_
    rw [State.regsUpTo_length]
    exact ha

/-- Settles O48: with I + x out of bounds the fatal answer, else a load of V0 to Vx and the new I, which fits. -/
theorem loadRegistersFromMemory : Obligations.LoadRegistersFromMemory := by
  intro x s
  refine ⟨decodeWord_Fxkk decodeGroupF_65 x, fun h => exec_fatal (c := .outOfBoundsMemory) (if_pos h), fun h => ?_⟩
  refine ⟨_, exec_ldVxMem h, fun k => ?_, ?_, rfl,
    (s.setRegs_unchangedBut _).trans (State.setI_advance_unchangedBut _ _)⟩
  · rw [State.getV_advance, State.getV_setI, State.getV, State.setRegs_v, loadRegs_getElem _ _ _ _ k.isLt]
    exact if_congr Nat.lt_succ_iff rfl rfl
  · rw [State.advance_i, State.setI_i, BitVec.toNat_ofNat]
    omega

/-! ### Storing into the next instruction (R55) -/

/-- The step of a word given as a number. -/
theorem step_of_fetchesWord {s : State} {w : Nat} {i : Instr} (hcan : CanFetch s) (hfetch : FetchesWord s w)
    (hd : decodeWord (BitVec.ofNat 16 w) = .ok i) : step s = exec i (s.setOpcode s.wordAtPc) := by
  have hw : s.wordAtPc.toNat = w := s.wordAtPc_toNat.trans hfetch
  rw [← hw, BitVec.ofNat_toNat, BitVec.setWidth_eq] at hd
  exact step_of_decode hcan hd

/-- A state that an instruction left running at PC + 2, below the last address that can be fetched, can fetch there. -/
theorem canFetch_advance {s t : State} (hcan : CanFetch s) (hp : s.pc.toNat + 3 ≤ 4095) (hhalt : t.halt = s.halt)
    (hpc : t.pc = s.pc + 2#16) : CanFetch t ∧ t.pc.toNat = s.pc.toNat + 2 := by
  have hpc2 : t.pc.toNat = s.pc.toNat + 2 := by
    rw [hpc]
    exact pc_add_toNat hcan.2 2#16 (by decide)
  exact ⟨⟨hhalt.trans hcan.1, by omega⟩, hpc2⟩

/-- Settles O26: I is the next PC, so the first bytes stored are the word of the next fetch. -/
theorem storedWordIsFetchedNext : Obligations.StoredWordIsFetchedNext := by
  intro s x hcan hi hp
  refine ⟨fun hfetch hbound => ?_, fun hfetch hbound => ?_⟩
  · obtain ⟨hd, -, hstore⟩ := storeRegistersToMemory x (s.setOpcode s.wordAtPc)
    obtain ⟨t, hexec, hbytes, hothers, hpc, hframe⟩ := hstore (show s.i.toNat + x.val ≤ 4095 by omega)
    obtain ⟨hcan', hpc'⟩ := canFetch_advance hcan hp (hframe .halt (by simp)) hpc
    refine ⟨t, (step_of_fetchesWord hcan hfetch hd).trans hexec, hcan', hpc', ?_⟩
    have hfirst : t.readByte (s.pc.toNat + 2) = s.getV 0 := hi ▸ hbytes 0 (Nat.zero_le _)
    have hsecond : t.readByte (s.pc.toNat + 3) = if x = 0 then s.readByte (s.pc.toNat + 3) else s.getV 1 := by
      by_cases hx : x = 0
      · rw [if_pos hx]
        refine hothers _ (.inr ?_)
        show s.i.toNat + x.val < s.pc.toNat + 3
        rw [hx, hi]
        exact Nat.lt_succ_self _
      · rw [if_neg hx, show s.pc.toNat + 3 = s.i.toNat + 1 by omega]
        exact hbytes 1 (Fin.one_le_of_ne_zero hx)
    rw [FetchesWord, hpc', hfirst, hsecond]
    split <;> rfl
  · obtain ⟨hd, -, hstore⟩ := bcdStoresThreeDigits x (s.setOpcode s.wordAtPc)
    obtain ⟨t, hexec, hhundreds, htens, -, -, hpc, hframe⟩ := hstore (show s.i.toNat + 2 ≤ 4095 by omega)
    obtain ⟨hcan', hpc'⟩ := canFetch_advance hcan hp (hframe .halt (by simp)) hpc
    refine ⟨t, (step_of_fetchesWord hcan hfetch hd).trans hexec, hcan', hpc', ?_⟩
    rw [FetchesWord, hpc', ← hi]
    exact congrArg₂ (256 * · + ·) hhundreds htens

end Sys2Proof.Machine
end

section
/-! PROOF. The draw (44_display.md R110 to R117). `State.spritePixel` says which pixels a sprite's set bits fall on; a draw
XORs them into the screen (`fbPixel_drawn`) and collides where one of them was lit (`drawn_hit_iff`). -/

namespace Sys2Proof.Machine

/-! ### One sprite row, byte by byte (R111) -/

theorem spriteHigh_toNat (px : Nat) (b : Byte) : (spriteHigh px b).toNat = b.toNat / 2 ^ (px % 8) := by
  rw [spriteHigh, BitVec.toNat_ushiftRight, Nat.shiftRight_eq_div_pow]

theorem spriteLow_toNat (px : Nat) (b : Byte) : (spriteLow px b).toNat = b.toNat * 2 ^ (8 - px % 8) % 256 := by
  rw [spriteLow, BitVec.toNat_shiftLeft, Nat.shiftLeft_eq]

/-- Settles O55: the two bytes of the row where `rowPart` is one of the sprite's parts, and every other byte. -/
theorem spriteRowTouchesTwoBytes : Obligations.SpriteRowTouchesTwoBytes := by
  intro px r b fb hp hr
  have hbyte := fbByte_drawRow px r b fb hp hr
  refine ⟨8 * r + px / 8, 8 * r + (px / 8 + 1) % 8, rfl, rfl, by omega, ?_, ?_, fun k h0 h1 => ?_⟩
  · rw [hbyte, if_pos (by omega), rowPart, if_pos (by omega), BitVec.toNat_xor, spriteHigh_toNat]
  · rw [hbyte, if_pos (by omega), rowPart, if_neg (by omega), if_pos (by omega), BitVec.toNat_xor, spriteLow_toNat]
  · rw [hbyte]
    split
    · rw [rowPart, if_neg (by omega), if_neg (by omega)]
      exact BitVec.xor_zero
    · rfl

/-! ### When a draw is fatal (R114, R128) -/

/-- The draws that are not fatal: none of the rows leaves memory or the screen, or there is no row. -/
theorem fatalCause_drw_none_iff (x y : RegIdx) (n : Fin 16) (s : State) :
    fatalCause (.drw x y n) s = none ↔
      n.val = 0 ∨ (s.i.toNat + n.val ≤ 4096 ∧ (s.getV x).toNat ≤ 63 ∧ (s.getV y).toNat + n.val ≤ 32) := by
  rw [fatalCause, ← drawCheck_eq_drawFatalCause, drawCheck_eq_none]
  omega

/-- The cause of a fatal draw is that of its first row outside memory or the screen, memory first (R128). -/
theorem drawFatalCause_first_row {base px py n : Nat} {c : Cause} (h : drawFatalCause base px py n = some c) :
    ∃ row, row < n ∧ (∀ k, k < row → base + k ≤ 4095 ∧ px ≤ 63 ∧ py + k ≤ 31) ∧
      ((4095 < base + row ∧ c.code.toNat = 4) ∨
        (base + row ≤ 4095 ∧ (63 < px ∨ 31 < py + row) ∧ c.code.toNat = 5)) := by
  obtain ⟨seen, hseen⟩ : ∃ seen, seen = if px > 63 then 0 else 32 - py := ⟨_, rfl⟩
  have hscreen : ∀ row, row < seen ↔ px ≤ 63 ∧ py + row ≤ 31 := by
    intro row
    split at hseen <;> omega
  simp only [drawFatalCause, ← hseen] at h
  split at h
  · cases h
  · split at h
    · cases h
      exact ⟨4096 - base, by omega, fun k hk => ⟨by omega, (hscreen k).mp (by omega)⟩, .inl ⟨by omega, rfl⟩⟩
    · cases h
      have hoff := (hscreen seen).not.mp (Nat.lt_irrefl seen)
      exact ⟨seen, by omega, fun k hk => ⟨by omega, (hscreen k).mp hk⟩, .inr ⟨by omega, by omega, rfl⟩⟩

/-- Settles O56: the fatal answer for exactly the draws that are not in bounds. -/
theorem drawOutOfBoundsIsFatal : Obligations.DrawOutOfBoundsIsFatal := by
  intro x y n s hhalt
  have hnone := fatalCause_drw_none_iff x y n s
  rcases exec_cases (.drw x y n) s with ⟨c, hc, hexec⟩ | ⟨hin, t, hexec, hcompletes⟩
  · rw [hc] at hnone
    refine ⟨_, hexec, iff_of_true rfl ?_, fun _ => ⟨s.raiseFatal_unchangedBut c, drawFatalCause_first_row hc⟩⟩
    simp only [reduceCtorEq, false_iff] at hnone
    omega
  · have hrunning : t.halt ≠ true := by simp [hcompletes.halt_eq, hhalt]
    refine ⟨t, hexec, iff_of_false hrunning ?_, fun h => absurd h hrunning⟩
    rw [hnone] at hin
    omega

/-! ### The pixels of a sprite (R115) -/

/-- Whether a set bit of the sprite that `Dxyn` draws falls on the pixel at column `c` and row `r`: bit 7 − j of the byte
of row k falls on column (Vx + j) mod 64 of row Vy + k. -/
def State.spritePixel (s : State) (x y : RegIdx) (n : Fin 16) (c r : Nat) : Bool :=
  decide ((s.getV y).toNat ≤ r ∧ r < (s.getV y).toNat + n.val) &&
    (decide ((c + 64 - (s.getV x).toNat) % 64 < 8) &&
      (s.readByte (s.i.toNat + (r - (s.getV y).toNat))).getLsbD (7 - (c + 64 - (s.getV x).toNat) % 64))

section
variable {x y : RegIdx} {n : Fin 16} {s : State}

/-- A draw in bounds that draws a row starts on the screen (R114). -/
theorem px_le_of_fatalCause_none (h : fatalCause (.drw x y n) s = none) (hn : 0 < n.val) : (s.getV x).toNat ≤ 63 := by
  rcases (fatalCause_drw_none_iff x y n s).mp h with hn0 | ⟨-, hx, -⟩
  · omega
  · exact hx

/-- Where a bit of the sprite falls. -/
theorem State.spritePixel_at (h : fatalCause (.drw x y n) s = none) {row j : Nat} (hrow : row < n.val) (hj : j < 8) :
    s.spritePixel x y n (((s.getV x).toNat + j) % 64) ((s.getV y).toNat + row) =
      (s.readByte (s.i.toNat + row)).getLsbD (7 - j) := by
  have hx := px_le_of_fatalCause_none h (by omega)
  have hcol : (((s.getV x).toNat + j) % 64 + 64 - (s.getV x).toNat) % 64 = j := by omega
  simp [State.spritePixel, hcol, hrow, hj]

/-- Every pixel of the sprite is where some bit of it falls. -/
theorem State.exists_of_spritePixel (h : fatalCause (.drw x y n) s = none) {c r : Nat} (hc : c < 64)
    (hpixel : s.spritePixel x y n c r = true) :
    ∃ row j, row < n.val ∧ j < 8 ∧ c = ((s.getV x).toNat + j) % 64 ∧ r = (s.getV y).toNat + row ∧
      (s.readByte (s.i.toNat + row)).getLsbD (7 - j) = true := by
  simp only [State.spritePixel, Bool.and_eq_true, decide_eq_true_eq] at hpixel
  obtain ⟨⟨hlo, hhi⟩, hj, hbit⟩ := hpixel
  have hx := px_le_of_fatalCause_none h (by omega)
  exact ⟨r - (s.getV y).toNat, (c + 64 - (s.getV x).toNat) % 64, by omega, hj, by omega, by omega, hbit⟩

/-! ### What a draw in bounds leaves -/

/-- The bytes of the screen after a draw in bounds: each row of the sprite XORs its parts into its row of bytes. -/
theorem fbByte_drawn (h : fatalCause (.drw x y n) s = none) (k : Nat) :
    fbByte (s.drawn x y n).1 k =
      if (s.getV y).toNat ≤ k / 8 ∧ k / 8 < (s.getV y).toNat + n.val then
        fbByte s.fb k ^^^ rowPart (s.getV x).toNat (s.readByte (s.i.toNat + (k / 8 - (s.getV y).toNat))) (k % 8)
      else fbByte s.fb k := by
  rcases (fatalCause_drw_none_iff x y n s).mp h with hn | ⟨-, hx, hy⟩
  · rw [if_neg (by omega), State.drawn, hn]
    rfl
  · exact fbByte_drawRows s.mem _ _ _ (by omega) n.val 0 s.fb false (by omega) k

/-- A draw in bounds XORs the pixels of the sprite into the screen. -/
theorem fbPixel_drawn (h : fatalCause (.drw x y n) s = none) {c : Nat} (hc : c < 64) (r : Nat) :
    fbPixel (s.drawn x y n).1 c r = (fbPixel s.fb c r ^^ s.spritePixel x y n c r) := by
  have hrow : (r * 8 + c / 8) / 8 = r := by omega
  have hcol : (r * 8 + c / 8) % 8 = c / 8 := by omega
  simp only [fbPixel, Config.rowBytes, fbByte_drawn h, hrow, hcol]
  split
  · next hr =>
    have hx := px_le_of_fatalCause_none h (by omega)
    rw [BitVec.getLsbD_xor, rowPart_pixel _ _ _ (by omega) hc, State.spritePixel, decide_eq_true hr, Bool.true_and]
  · next hr => rw [State.spritePixel, decide_eq_false hr, Bool.false_and, Bool.xor_false]

/-- Two bytes have a bit in common when their conjunction is not zero. -/
theorem and_ne_zero_iff (a b : Byte) : a &&& b ≠ 0 ↔ ∃ j, j < 8 ∧ a.getLsbD j = true ∧ b.getLsbD j = true := by
  constructor
  · intro h
    by_contra hno
    refine h (BitVec.eq_of_getLsbD_eq fun j hj => ?_)
    rw [BitVec.getLsbD_and, BitVec.ofNat_eq_ofNat, BitVec.getLsbD_zero, Bool.and_eq_false_iff]
    by_contra hboth
    simp only [not_or, Bool.not_eq_false] at hboth
    exact hno ⟨j, hj, hboth⟩
  · rintro ⟨j, -, ha, hb⟩ hzero
    have hbit := congrArg (·.getLsbD j) hzero
    simp [ha, hb] at hbit

/-- A draw in bounds collides when a pixel of the sprite was lit (R113). -/
theorem drawn_hit_iff (h : fatalCause (.drw x y n) s = none) :
    (s.drawn x y n).2 = true ↔ ∃ c r, c < 64 ∧ s.spritePixel x y n c r = true ∧ fbPixel s.fb c r = true := by
  rcases (fatalCause_drw_none_iff x y n s).mp h with hn | ⟨-, hx, hy⟩
  · refine iff_of_false ?_ ?_
    · rw [State.drawn, hn]
      exact Bool.false_ne_true
    · rintro ⟨c, r, -, hpixel, -⟩
      simp only [State.spritePixel, Bool.and_eq_true, decide_eq_true_eq] at hpixel
      omega
  · rw [State.drawn, drawRows_hit s.mem _ _ _ (by omega) n.val 0 s.fb false (by omega)]
    simp only [Bool.false_eq_true, false_or, and_ne_zero_iff]
    constructor
    · rintro ⟨k, c, -, hk, hc, j, hj, hlit, hpart⟩
      have hcol : (8 * c + (7 - j)) / 8 = c := by omega
      have hbit : 7 - (8 * c + (7 - j)) % 8 = j := by omega
      have hpixel := rowPart_pixel (s.getV x).toNat (s.mem.read (s.i.toNat + k)) (8 * c + (7 - j)) (by omega) (by omega)
      rw [hcol, hbit, hpart] at hpixel
      refine ⟨8 * c + (7 - j), (s.getV y).toNat + k, by omega, ?_, ?_⟩
      · rw [State.spritePixel, decide_eq_true (by omega), Bool.true_and, Nat.add_sub_cancel_left]
        exact hpixel.symm
      · rw [fbPixel, hcol, hbit, Nat.mul_comm]
        exact hlit
    · rintro ⟨c, r, hc, hpixel, hlit⟩
      simp only [State.spritePixel, Bool.and_eq_true (decide ((s.getV y).toNat ≤ r ∧ _)), decide_eq_true_eq] at hpixel
      obtain ⟨hr, hpart⟩ := hpixel
      rw [← rowPart_pixel _ _ _ (by omega) hc] at hpart
      refine ⟨r - (s.getV y).toNat, c / 8, by omega, by omega, by omega, 7 - c % 8, by omega, ?_, hpart⟩
      rw [show 8 * ((s.getV y).toNat + (r - (s.getV y).toNat)) = r * 8 by omega]
      exact hlit

/-- The state a draw in bounds leaves: the screen and VF are those of `State.drawn`, PC advances, nothing else changes. -/
theorem exec_next_of_drawn (h : fatalCause (.drw x y n) s = none) :
    ∃ t, exec (.drw x y n) s = .next t ∧ t.fb = (s.drawn x y n).1 ∧ t.getV 15 = flagByte (s.drawn x y n).2 ∧
      (∀ r, r ≠ 15 → t.getV r = s.getV r) ∧ t.pc = s.pc + 2#16 ∧ UnchangedBut [.fb, .v, .pc] s t := by
  refine ⟨_, exec_drw h, rfl, ?_, fun r hr => ?_, rfl,
    ((s.setFb_unchangedBut _).trans (State.setFlag_unchangedBut _ _)).trans (State.advance_unchangedBut _)⟩
  · rw [State.getV_advance, State.getV_setFlag_vf]
  · rw [State.getV_advance, State.getV_setFlag_ne _ r _ hr, State.getV_setFb]

end

/-! ### The obligations -/

/-- Settles O53: where a bit of the sprite falls and where none does. -/
theorem drawXorsTheSpriteIntoThePixels : Obligations.DrawXorsTheSpriteIntoThePixels := by
  intro x y n s
  refine ⟨decodeWord_wordOfNibbles_drw x y n, fun hin => ?_⟩
  have hnone := (fatalCause_drw_none_iff x y n s).mpr hin
  obtain ⟨t, hexec, hfb, -, hregs, hpc, hframe⟩ := exec_next_of_drawn hnone
  refine ⟨t, hexec, fun row j hrow hj => ?_, fun c r hc _ hoff => ?_, hregs, hpc, hframe⟩
  · rw [hfb, fbPixel_drawn hnone (by omega), State.spritePixel_at hnone hrow hj, Bool.xor_comm]
  · have hnot : s.spritePixel x y n c r ≠ true := fun hpixel => by
      obtain ⟨row, j, hrow, hj, hcol, hr, -⟩ := State.exists_of_spritePixel hnone hc hpixel
      exact hoff row j hrow hj hcol hr
    rw [hfb, fbPixel_drawn hnone hc, Bool.eq_false_iff.mpr hnot, Bool.xor_false]

/-- Settles O54: the collision is that of some bit of the sprite. -/
theorem drawReportsCollision : Obligations.DrawReportsCollision := by
  intro x y n s hin
  have hnone := (fatalCause_drw_none_iff x y n s).mpr hin
  obtain ⟨t, hexec, -, hvf, -⟩ := exec_next_of_drawn hnone
  refine ⟨t, hexec, ?_, fun hclear => ?_⟩
  · rintro ⟨row, j, hrow, hj, hbit, hlit⟩
    have hhit : (s.drawn x y n).2 = true := (drawn_hit_iff hnone).mpr
      ⟨_, _, Nat.mod_lt _ (by decide), (State.spritePixel_at hnone hrow hj).trans hbit, hlit⟩
    rw [hvf, flagByte_toNat, if_pos hhit]
  · have hmiss : (s.drawn x y n).2 ≠ true := fun hhit => by
      obtain ⟨c, r, hc, hpixel, hlit⟩ := (drawn_hit_iff hnone).mp hhit
      obtain ⟨row, j, hrow, hj, rfl, rfl, hbit⟩ := State.exists_of_spritePixel hnone hc hpixel
      rw [hclear row j hrow hj hbit] at hlit
      cases hlit
    rw [hvf, flagByte_toNat, if_neg hmiss]

/-- The sprite depends on Vx, Vy, I and memory, not on the screen. -/
theorem State.spritePixel_congr {x y : RegIdx} {n : Fin 16} {s t : State} (hx : t.getV x = s.getV x)
    (hy : t.getV y = s.getV y) (hi : t.i = s.i) (hmem : ∀ a, t.readByte a = s.readByte a) (c r : Nat) :
    t.spritePixel x y n c r = s.spritePixel x y n c r := by
  simp only [State.spritePixel, hx, hy, hi, hmem]

/-- Settles O57: the second draw XORs the same parts into the same bytes, and a pixel that the first draw lit is a pixel of
the sprite. -/
theorem drawingTwiceRestoresTheFramebuffer : Obligations.DrawingTwiceRestoresTheFramebuffer := by
  intro x y n s hin
  have hnone := (fatalCause_drw_none_iff x y n s).mpr hin
  obtain ⟨t, hexec, hfb, -, hregs, -, hframe⟩ := exec_next_of_drawn hnone
  refine ⟨t, hexec, fun hx hy => ?_⟩
  have hi : t.i = s.i := hframe .i (by simp)
  have hmem : ∀ a, t.readByte a = s.readByte a := hframe .mem (by simp)
  have hnone' : fatalCause (.drw x y n) t = none := by rwa [fatalCause, hi, hx, hy]
  obtain ⟨u, hexec', hfb', hvf', hregs', -, hframe'⟩ := exec_next_of_drawn hnone'
  have hrestored : ∀ k, fbByte u.fb k = fbByte s.fb k := fun k => by
    rw [hfb', fbByte_drawn hnone', hi, hx, hy, hmem, hfb, fbByte_drawn hnone]
    split
    · rw [BitVec.xor_assoc, BitVec.xor_self, BitVec.xor_zero]
    · rfl
  refine ⟨u, hexec', hrestored, fun r hr => (hregs' r hr).trans (hregs r hr), fun p hp => ?_, ?_⟩
  · by_cases hpfb : p = .fb
    · exact hpfb ▸ hrestored
    · exact (hframe.trans hframe') p (by simp_all)
  · rintro ⟨c, r, hc, -, hdark, hlit⟩
    have hpixel : s.spritePixel x y n c r = true := by
      have hdrawn := fbPixel_drawn hnone hc r
      rwa [← hfb, hlit, hdark, Bool.false_xor, eq_comm] at hdrawn
    have hhit : (t.drawn x y n).2 = true := (drawn_hit_iff hnone').mpr
      ⟨c, r, hc, (State.spritePixel_congr hx hy hi hmem c r).trans hpixel, hlit⟩
    rw [hvf', flagByte_toNat, if_pos hhit]

end Sys2Proof.Machine
end
